-- ==== Sys2Proof/Word.lean ====
section
/-! DEFINITION. The word types of the block (R12) and the plain records made of them that instructions, registers and
channels share. -/

namespace Sys2Proof

/-- A byte on the controller bus, an 8-bit operand or an 8-bit register (R12). -/
abbrev Byte := BitVec 8

/-- One 4-bit clock-out (R12, R18). -/
abbrev Nibble := BitVec 4

/-- A pin identifier, 8 bits (R8, D9). -/
abbrev PinId := BitVec 8

/-- A DELAY operand in microseconds, 32 bits unsigned (R12). -/
abbrev Micros := BitVec 32

/-- What the request channel carries: a 32-bit word and a 64-bit payload, presented together (R70, R73). -/
structure Request where
  word    : BitVec 32
  payload : BitVec 64
deriving DecidableEq, Repr

/-- The eight pattern rows of a glyph, row 0 first (R144). -/
structure Glyph where
  p0 : Byte
  p1 : Byte
  p2 : Byte
  p3 : Byte
  p4 : Byte
  p5 : Byte
  p6 : Byte
  p7 : Byte
deriving DecidableEq, Repr

/-- Four row offsets, one per logical row (R28, R34). -/
structure RowOffsets where
  o0 : Byte
  o1 : Byte
  o2 : Byte
  o3 : Byte
deriving DecidableEq, Repr

end Sys2Proof
end

