-- ==== Sys2Proof/Config.lean ====
section
/-! DEFINITION. What is fixed when an instance of the block is built: its pins and bus width (R8, R9), its timing parameters
(R11), and the platform's guarantee PORT_SETUP_OK (R210). No request changes any of it. -/

namespace Sys2Proof

/-- The sentinel pin id of an absent pin (R8, D9). -/
def pinNone : PinId := 0xFF

/-- Three delays, in the order the recovery sequence waits them (R11). -/
structure Tiers where
  t0 : Micros
  t1 : Micros
  t2 : Micros
deriving DecidableEq, Repr

/-- The timing parameters of R11, in microseconds. -/
structure Timing where
  tPowerup      : Micros
  tInit4        : Tiers
  tInit8        : Tiers
  tEHigh        : Micros
  tClear        : Micros
  tHome         : Micros
  settleDefault : BitVec 16
deriving DecidableEq, Repr

/-- The defaults of R11. -/
def Timing.default : Timing where
  tPowerup := 50000
  tInit4 := ⟨4500, 4500, 150⟩
  tInit8 := ⟨4500, 150, 0⟩
  tEHigh := 1
  tClear := 2000
  tHome := 2000
  settleDefault := 100

/-- The construction parameters of R8, the timing parameters of R11 and the platform parameter of R210. -/
structure Params where
  bus8   : Bool
  rs     : PinId
  rw     : PinId
  e      : PinId
  data   : Vector PinId 8
  timing : Timing
  /-- PORT_SETUP_OK: the port's per-operation latency meets the controller's setup and hold times (R210, D37). The block does
  not read it; a claim that rests on it takes it as a premise. -/
  portSetupOk : Bool
deriving DecidableEq, Repr

/-- W, the width of a clock-out (R9). -/
def Params.width (p : Params) : Nat := if p.bus8 then 8 else 4

/-- `P_DATA[0..W-1]`: the data pins in use (R9). -/
def Params.dataPins (p : Params) : List PinId := p.data.toList.take p.width

/-- `P_RW` when it is present (R8). -/
def Params.rwPins (p : Params) : List PinId := if p.rw = pinNone then [] else [p.rw]

/-- Every pin of the bus: RS, RW when present, E, and the data pins in use (R10). -/
def Params.busPins (p : Params) : List PinId := p.rs :: p.rwPins ++ p.e :: p.dataPins

/-- Configuration A of 95_test_vectors.md: 4-bit, no RW, the source's end-to-end wiring. That PORT_SETUP_OK is not guaranteed is
the model's choice (log entry 18). -/
def Params.configurationA : Params where
  bus8 := false
  rs := 12
  rw := pinNone
  e := 11
  data := #v[5, 4, 3, 2, pinNone, pinNone, pinNone, pinNone]
  timing := Timing.default
  portSetupOk := false

/-- Configuration B of 95_test_vectors.md: 8-bit with RW. PORT_SETUP_OK as in configuration A (log entry 18). -/
def Params.configurationB : Params where
  bus8 := true
  rs := 8
  rw := 9
  e := 10
  data := #v[0, 1, 2, 3, 4, 5, 6, 7]
  timing := Timing.default
  portSetupOk := false

end Sys2Proof
end

