-- ==== Sys2Proof/Syntax.lean ====
section
/-! DEFINITION. The requests of R74, one constructor per row of spec/opcode_table.json, with the operands of R75. -/

namespace Sys2Proof

/-- One public operation of the block (R70, R74). -/
inductive Instr where
  /-- `BEGIN cols, rows [, 5x10]` (R115). -/
  | lcdBegin (cols rows : Byte) (font5x10 : Bool)
  /-- `CLEAR` (R131). -/
  | clear
  /-- `HOME` (R132). -/
  | home
  /-- `SETCURSOR col, row` (R134). -/
  | setCursor (col row : Byte)
  /-- `DISPLAY_ON` (R136). -/
  | displayOn
  /-- `DISPLAY_OFF` (R137). -/
  | displayOff
  /-- `CURSOR_ON` (R138). -/
  | cursorOn
  /-- `CURSOR_OFF` (R139). -/
  | cursorOff
  /-- `BLINK_ON` (R140). -/
  | blinkOn
  /-- `BLINK_OFF` (R141). -/
  | blinkOff
  /-- `SCROLL_LEFT` (R142). -/
  | scrollLeft
  /-- `SCROLL_RIGHT` (R143). -/
  | scrollRight
  /-- `LEFT_TO_RIGHT` (R150). -/
  | leftToRight
  /-- `RIGHT_TO_LEFT` (R151). -/
  | rightToLeft
  /-- `AUTOSCROLL_ON` (R152). -/
  | autoscrollOn
  /-- `AUTOSCROLL_OFF` (R153). -/
  | autoscrollOff
  /-- `CREATE_CHAR index, p0..p7` (R144). -/
  | createChar (index : Byte) (pattern : Glyph)
  /-- `WRITE byte` (R145). -/
  | write (value : Byte)
  /-- `SET_ROW_OFFSETS o0, o1, o2, o3` (R166). -/
  | setRowOffsets (offsets : RowOffsets)
  /-- `SET_SETTLE_TIME us` (R167). -/
  | setSettleTime (us : BitVec 16)
  /-- `CONFIG_BACKLIGHT pin, mode` (R170). -/
  | configBacklight (pin : PinId) (mode : BitVec 2)
  /-- `SET_BACKLIGHT level` (R171). -/
  | setBacklight (level : Byte)
deriving DecidableEq, Repr

end Sys2Proof
end

