-- ==== Sys2Proof/WellFormed.lean ====
section
/-! DEFINITION. Which constructions the spec gives a behaviour (R10, R11), and which requests carry no reserved operand
(R85). -/

namespace Sys2Proof

/-- R10, first point: RS, E and every data pin in use are present. -/
def Params.requiredPinsPresent (p : Params) : Bool :=
  decide (p.rs ≠ pinNone) && decide (p.e ≠ pinNone) && decide (pinNone ∉ p.dataPins)

/-- R10, second point: the bus pins are pairwise distinct. -/
def Params.pinsDistinct (p : Params) : Bool := decide p.busPins.Nodup

/-- R11: `SETTLE_DEFAULT` "must be ≥ 1". -/
def Timing.settleDefaultLegal (t : Timing) : Bool := decide (t.settleDefault ≠ 0)

/-- A well-formed configuration (R10, R11). The block has no behaviour for any other. -/
def Params.wf (p : Params) : Bool :=
  p.requiredPinsPresent && p.pinsDistinct && p.timing.settleDefaultLegal

/-- Backlight mode 3 is reserved, and "the only operand value that makes a request illegal" (R85). -/
def Instr.wf : Instr → Bool
  | .configBacklight _ mode => decide (mode ≠ 3)
  | .lcdBegin _ _ _ | .clear | .home | .setCursor _ _ | .displayOn | .displayOff | .cursorOn | .cursorOff | .blinkOn
  | .blinkOff | .scrollLeft | .scrollRight | .leftToRight | .rightToLeft | .autoscrollOn | .autoscrollOff
  | .createChar _ _ | .write _ | .setRowOffsets _ | .setSettleTime _ | .setBacklight _ => true

end Sys2Proof
end

