-- ==== Sys2Proof/Machine/State.lean ====
section
/-! DEFINITION. The state of the block (10_state.md) as plain data, the pin operations and responses it produces (R77,
R71), the inputs a clock edge samples (R70-R72, R200), the reasons a step can stop, and the state after reset (R200). -/

namespace Sys2Proof.Machine

/-- The direction of a CONFIG operation; the block emits `output` alone (R77). -/
inductive Direction where
  | input
  | output
deriving DecidableEq, Repr

/-- One call of the Pin-I/O Port contract (R77). A level is `true` for high. -/
inductive PinOp where
  | config (pin : PinId) (dir : Direction)
  | write (pin : PinId) (level : Bool)
  | delay (us : Micros)
  | duty (pin : PinId) (level : Byte)
deriving DecidableEq, Repr

/-- What the response channel returns (R71, R79). -/
structure Response where
  count   : Byte
  illegal : Bool
deriving DecidableEq, Repr

/-- `(0, 0)`, the response of every completed request but `WRITE` (R79). -/
def Response.done : Response := ⟨0, false⟩

/-- `(1, 0)`, the response of `WRITE` (R79, R145). -/
def Response.oneByte : Response := ⟨1, false⟩

/-- `(0, 1)`, the response to a reserved encoding (R79, R83, R85). -/
def Response.reserved : Response := ⟨0, true⟩

/-- PHASE (R21). -/
inductive Phase where
  | idle
  | busy
deriving DecidableEq, Repr

/-- The registers of R33. -/
structure Regs where
  /-- FUNC (R24). -/
  func     : Byte
  /-- DCTRL (R25). -/
  dctrl    : Byte
  /-- EMODE (R26). -/
  emode    : Byte
  /-- ROWOFF[0..3] (R28). -/
  rowOff   : RowOffsets
  /-- NUMLINES (R29). -/
  numLines : Byte
  /-- SETTLE (R30). -/
  settle   : BitVec 16
  /-- BL_PIN (R31). -/
  blPin    : PinId
  /-- BL_MODE: 0 normal, 1 inverted, 2 PWM (R31). -/
  blMode   : BitVec 2
  /-- BL_LEVEL (R31). -/
  blLevel  : Byte
  /-- CUR_ROW (R32). -/
  curRow   : BitVec 2
deriving DecidableEq, Repr

/-- What is driven into the block at one rising edge of `clk`: the request channel (R70), `po_ready` (R72), `resp_ready`
(R71), `rst` (R200), and the pins that some other agent drives (R64), which the spec asks a model to refuse. -/
structure Inputs where
  rst         : Bool
  reqValid    : Bool
  reqWord     : BitVec 32
  reqPayload  : BitVec 64
  poReady     : Bool
  respReady   : Bool
  otherDrives : List PinId
deriving DecidableEq, Repr

/-- Nothing is driven: no reset, no request, nobody ready. -/
def Inputs.quiet : Inputs := ⟨false, false, 0, 0, false, false, []⟩

/-- An edge at which the port has performed the presented operation and the host takes the presented response. -/
def Inputs.ready : Inputs := ⟨false, false, 0, 0, true, true, []⟩

/-- An edge at which the host presents a request. -/
def Inputs.request (r : Request) : Inputs := ⟨false, true, r.word, r.payload, false, false, []⟩

/-- The state of one instance of the block and of its surroundings. -/
structure State where
  /-- The construction and timing parameters (R8, R11), which no step changes. -/
  params    : Params
  /-- The registers (R33). -/
  regs      : Regs
  /-- PHASE (R21). -/
  phase     : Phase
  /-- CUR, the accepted request; meaningful in BUSY (R21). -/
  cur       : Request
  /-- SEQ, the pin operations CUR emits, fixed at acceptance (R21). -/
  seq       : List PinOp
  /-- USTEP, the index in SEQ of the next operation (R21). -/
  ustep     : Nat
  /-- RESP, the response CUR will return (R21). -/
  resp      : Response
  /-- The MODEL's own field: what the coming clock edges drive, the next one first (log entry 1). -/
  inputs    : List Inputs
  /-- The MODEL's own field: the trace, every pin operation performed so far, oldest first (R19, log entry 4). -/
  trace     : List PinOp
  /-- The MODEL's own field: every response taken so far, oldest first (log entry 4). -/
  responses : List Response
deriving DecidableEq, Repr

/-- The reasons of a fault: none. "The block raises no exception" (R180) and "A model has no fault outcome for a
transmit" (R109). Safe and unsafe do not arise. -/
inductive Fault : Type where
deriving DecidableEq, Repr

/-- Why a step answers with no state. -/
inductive Refusal where
  /-- Raised by exec's arm of an instruction without a meaning; no arm raises it. Safe. -/
  | notModelled (mnemonic : String)
  /-- Raised by every step and every meaning of a block whose construction R10 or R11 calls ill-formed: "A model must
  refuse such a configuration and not give it a trace." Safe: it errs toward unprovable (R182). -/
  | illFormedConfiguration
  /-- Raised by a step at whose edge another agent drives a pin of the block: "It must refuse such a run, not give it an
  outcome." (R64). Safe. -/
  | contestedPin
  /-- Raised by `CONFIG_BACKLIGHT` when the pin it names is one of the bus pins: "A model must refuse it." (R170). Safe. -/
  | backlightPinOnBus
deriving DecidableEq, Repr

/-- The default row-offset table that reset leaves (R28, R200). -/
def resetRowOffsets : RowOffsets := ⟨0x00, 0x40, 0x10, 0x50⟩

/-- The registers that reset leaves (R200). -/
def Regs.resetOf (p : Params) : Regs where
  func := if p.bus8 then 0x10 else 0x00
  dctrl := 0x00
  emode := 0x00
  rowOff := resetRowOffsets
  numLines := 1
  settle := p.timing.settleDefault
  blPin := pinNone
  blMode := 0
  blLevel := 0
  curRow := 0

/-- A block built with these parameters, right after reset (R200); CUR, SEQ and RESP hold the values of log entry 3. -/
def State.resetOf (p : Params) : State where
  params := p
  regs := Regs.resetOf p
  phase := .idle
  cur := ⟨0, 0⟩
  seq := []
  ustep := 0
  resp := Response.done
  inputs := []
  trace := []
  responses := []

/-- The machine right after reset: R200, for an instance built as configuration A (log entry 2). -/
def State.reset : State := State.resetOf Params.configurationA

end Sys2Proof.Machine
end

