-- ==== Sys2Proof/Machine/Operands.lean ====
section
/-! DEFINITION. The arithmetic of operands (R154): the row clamp (R135), the controller addresses (R134, R144), the default
row-offset table (R116), the settle clamp (R167). Each is computed on natural numbers and narrowed at the end. -/

namespace Sys2Proof.Machine

/-- `ROWOFF[r]` (R14, R34). -/
def rowOffset (t : RowOffsets) (r : BitVec 2) : Byte :=
  match r.toNat with
  | 0 => t.o0
  | 1 => t.o1
  | 2 => t.o2
  | _ => t.o3

/-- `L = min(max(NUMLINES, 1), 4)` (R135). -/
def usableLines (numLines : Byte) : Nat := min (max numLines.toNat 1) 4

/-- `clamp_row(row) = min(row, L - 1)`, always in 0..3 (R135). -/
def clampRow (numLines row : Byte) : BitVec 2 := BitVec.ofNat 2 (min row.toNat (usableLines numLines - 1))

/-- `ROWOFF[r] +_8 col`, the sum modulo 256 (R134, R154). -/
def ddramAddress (t : RowOffsets) (r : BitVec 2) (col : Byte) : Byte := rowOffset t r + col

/-- `(index & 7) << 3`, the CGRAM base address of a glyph (R51, R144). -/
def cgramAddress (index : Byte) : Byte := (index &&& 0x07) <<< 3

/-- `default_rowoffsets(cols)` (R116). -/
def defaultRowOffsets (cols : Byte) : RowOffsets := ⟨0x00, 0x40, cols, 0x40 + cols⟩

/-- `max(v, 1)` (R167). -/
def clampSettle (v : BitVec 16) : BitVec 16 := BitVec.ofNat 16 (max v.toNat 1)

/-- The pattern bytes in the order they are sent, `pattern[0]` first (R55, R144). -/
def patternBytes (g : Glyph) : List Byte := [g.p0, g.p1, g.p2, g.p3, g.p4, g.p5, g.p6, g.p7]

end Sys2Proof.Machine
end

