-- ==== Sys2Proof/Machine/Flags.lean ====
section
/-! DEFINITION. The flag registers FUNC, DCTRL and EMODE: the places of their bits (R24-R26), the writes of one field
(R130), and the command bytes that carry a whole register (R80, R130). -/

namespace Sys2Proof.Machine

/-- Bit 4 of FUNC, `DL` (R24). -/
def flagDL : Byte := 0x10

/-- Bit 3 of FUNC, `N` (R24). -/
def flagN : Byte := 0x08

/-- Bit 2 of FUNC, `F` (R24). -/
def flagF : Byte := 0x04

/-- Bit 2 of DCTRL, `D` (R25). -/
def flagD : Byte := 0x04

/-- Bit 1 of DCTRL, `C` (R25). -/
def flagC : Byte := 0x02

/-- Bit 0 of DCTRL, `B` (R25). -/
def flagB : Byte := 0x01

/-- Bit 1 of EMODE, `ID` (R26). -/
def flagID : Byte := 0x02

/-- Bit 0 of EMODE, `S` (R26). -/
def flagS : Byte := 0x01

/-- `REG.F <- 1`: the register with this one field set. -/
def setFlag (reg flag : Byte) : Byte := reg ||| flag

/-- `REG.F <- 0`: the register with this one field clear. -/
def clearFlag (reg flag : Byte) : Byte := reg &&& ~~~flag

/-- The field as a bit (R24-R26). -/
def hasFlag (reg flag : Byte) : Bool := decide (reg &&& flag ≠ 0)

/-- The bit as the field's value. -/
def flagWhen (flag : Byte) (set : Bool) : Byte := if set then flag else 0

/-- The value `BEGIN` writes to FUNC: `N = 1` when `rows > 1`, and the 5×10 font only when it is not (R115). -/
def functionFlags (bus8 : Bool) (rows : Byte) (font5x10 : Bool) : Byte :=
  let twoLines := decide (rows.toNat > 1)
  flagWhen flagDL bus8 ||| flagWhen flagN twoLines ||| flagWhen flagF (font5x10 && !twoLines)

/-- FUNCTIONSET, `0x20 | FUNC` (R24, R80). -/
def functionSetByte (r : Regs) : Byte := 0x20 ||| r.func

/-- DISPLAYCONTROL, `enc_dctrl = 0x08 | DCTRL` (R80, R130). -/
def displayControlByte (r : Regs) : Byte := 0x08 ||| r.dctrl

/-- ENTRYMODESET, `enc_emode = 0x04 | EMODE` (R80, R130). -/
def entryModeByte (r : Regs) : Byte := 0x04 ||| r.emode

/-- CLEARDISPLAY (R80). -/
def clearDisplayByte : Byte := 0x01

/-- RETURNHOME (R80). -/
def returnHomeByte : Byte := 0x02

/-- CURSORSHIFT with display move, to the left: `0x10 | 0x08 | 0x00` (R80, R142). -/
def scrollLeftByte : Byte := 0x18

/-- CURSORSHIFT with display move, to the right: `0x10 | 0x08 | 0x04` (R80, R143). -/
def scrollRightByte : Byte := 0x1C

/-- SETCGRAMADDR (R80, R144). -/
def setCgramAddrByte (addr : Byte) : Byte := 0x40 ||| addr

/-- SETDDRAMADDR; a bit 7 of the address is absorbed by the command bit (R50, R80, R134). -/
def setDdramAddrByte (addr : Byte) : Byte := 0x80 ||| addr

end Sys2Proof.Machine
end

