-- ==== Sys2Proof/Machine/Ops.lean ====
section
/-! DEFINITION. The named operations over registers and the sequencer: one write per register, with what is hard-wired in it
(R24-R27); the acceptance of a request (R22); and the abnormal completion, the only one the block has (R181). The block
raises no exception (R180), so nothing here saves or restores a context (R187, R188). -/

namespace Sys2Proof.Machine

/-- `FUNC <- v`: DL is hard-wired to P_BUS8 and bits 7:5 and 1:0 to 0 (R24, R27, R33). -/
def Regs.writeFunc (r : Regs) (bus8 : Bool) (v : Byte) : Regs :=
  { r with func := flagWhen flagDL bus8 ||| (v &&& (flagN ||| flagF)) }

/-- `DCTRL <- v`: bits 7:3 are hard-wired to 0 (R25, R33). -/
def Regs.writeDctrl (r : Regs) (v : Byte) : Regs := { r with dctrl := v &&& (flagD ||| flagC ||| flagB) }

/-- `EMODE <- v`: bits 7:2 are hard-wired to 0 (R26, R33). -/
def Regs.writeEmode (r : Regs) (v : Byte) : Regs := { r with emode := v &&& (flagID ||| flagS) }

/-- `ROWOFF[0..3] <- t` (R28). -/
def Regs.writeRowOff (r : Regs) (t : RowOffsets) : Regs := { r with rowOff := t }

/-- `NUMLINES <- v` (R29). -/
def Regs.writeNumLines (r : Regs) (v : Byte) : Regs := { r with numLines := v }

/-- `SETTLE <- v` (R30). -/
def Regs.writeSettle (r : Regs) (v : BitVec 16) : Regs := { r with settle := v }

/-- `BL_PIN <- v` (R31). -/
def Regs.writeBlPin (r : Regs) (v : PinId) : Regs := { r with blPin := v }

/-- `BL_MODE <- v` (R31). -/
def Regs.writeBlMode (r : Regs) (v : BitVec 2) : Regs := { r with blMode := v }

/-- `BL_LEVEL <- v` (R31). -/
def Regs.writeBlLevel (r : Regs) (v : Byte) : Regs := { r with blLevel := v }

/-- `CUR_ROW <- v` (R32). -/
def Regs.writeCurRow (r : Regs) (v : BitVec 2) : Regs := { r with curRow := v }

/-- The accept step of R22: `regs <- regs'; USTEP <- 0; PHASE <- BUSY`, with the sequence and the response that the
request's rule fixes. An ill-formed construction gets no trace (R10). -/
def State.accept (s : State) (regs : Regs) (seq : List PinOp) (resp : Response) :
    Host.Outcome State Fault Refusal :=
  if s.params.wf then .next { s with regs := regs, seq := seq, resp := resp, ustep := 0, phase := .busy }
  else .refused .illFormedConfiguration

/-- The abnormal completion: no register write, no pin operation, `RESP = (0, 1)` (R83, R85, R181). -/
def State.acceptReserved (s : State) : Host.Outcome State Fault Refusal := s.accept s.regs [] Response.reserved

end Sys2Proof.Machine
end

