-- ==== Sys2Proof/Machine/Transport.lean ====
section
/-! DEFINITION. The Bus Transport (40_bus_transport.md): the pin operations of a delay, a pulse, a clock-out, a transmit. Each
reads the construction parameters and the settle time alone. -/

namespace Sys2Proof.Machine

/-- `delay(n)`: nothing when `n = 0` (R106). -/
def delay (n : Micros) : List PinOp := if n = 0 then [] else [.delay n]

/-- `pulse()`: the enable strobe, its hold, and the settle delay (R105). -/
def pulse (p : Params) (settle : BitVec 16) : List PinOp :=
  [.write p.e true] ++ delay p.timing.tEHigh ++ [.write p.e false] ++ delay (settle.setWidth 32)

/-- The data writes of `clockOut(x, w)`: bit `i` on `P_DATA[i]`, ascending, none skipped (R54, R104). -/
def dataWrites (p : Params) (w : Nat) (x : BitVec w) : List PinOp :=
  (p.data.toList.take w).zipIdx.map fun (pin, i) => .write pin (x.getLsbD i)

/-- `clockOut(x, w)` (R104). -/
def clockOut (p : Params) (settle : BitVec 16) (w : Nat) (x : BitVec w) : List PinOp :=
  dataWrites p w x ++ pulse p settle

/-- The select-line step of a transmit: RS, and RW low when RW is present (R101). -/
def selectLines (p : Params) (rs : Bool) : List PinOp := .write p.rs rs :: p.rwPins.map fun rw => .write rw false

/-- `transmit(v, rs)`: one 8-bit clock-out, or two 4-bit ones, high nibble first (R100-R102). -/
def transmit (p : Params) (settle : BitVec 16) (v : Byte) (rs : Bool) : List PinOp :=
  selectLines p rs ++
    if p.bus8 then clockOut p settle 8 v
    else clockOut p settle 4 (v.extractLsb' 4 4) ++ clockOut p settle 4 (v.extractLsb' 0 4)

/-- `command(v)`, a transmit with RS low (R103). -/
def command (p : Params) (settle : BitVec 16) (v : Byte) : List PinOp := transmit p settle v false

/-- `data(v)`, a transmit with RS high (R103). -/
def data (p : Params) (settle : BitVec 16) (v : Byte) : List PinOp := transmit p settle v true

/-- The sum of the DELAY operands: a lower bound, in microseconds, on the time the operations take (R66, R214). -/
def minMicros : List PinOp → Nat
  | [] => 0
  | .delay n :: ops => n.toNat + minMicros ops
  | .config _ _ :: ops | .write _ _ :: ops | .duty _ _ :: ops => minMicros ops

end Sys2Proof.Machine
end

