-- ==== Sys2Proof/Machine/Backlight.lean ====
section
/-! DEFINITION. Configuration and the Backlight Controller (43_backlight_config.md): the requests that touch no bus pin
(R165). -/

namespace Sys2Proof.Machine

/-- `SET_ROW_OFFSETS o0, o1, o2, o3` (R166). -/
def execSetRowOffsets (offsets : RowOffsets) (s : State) : Host.Outcome State Fault Refusal :=
  s.accept (s.regs.writeRowOff offsets) [] Response.done

/-- `SET_SETTLE_TIME us`, clamped to at least 1 (R167). -/
def execSetSettleTime (us : BitVec 16) (s : State) : Host.Outcome State Fault Refusal :=
  s.accept (s.regs.writeSettle (clampSettle us)) [] Response.done

/-- The pin operations of `CONFIG_BACKLIGHT`: the pin, when there is one, to output; it is not driven (R170, D28). -/
def configBacklightSequence (pin : PinId) : List PinOp := if pin = pinNone then [] else [.config pin .output]

/-- `CONFIG_BACKLIGHT pin, mode`. Mode 3 is reserved (R85), tested first, as R170 does; a pin of the bus is refused
(R170). -/
def execConfigBacklight (pin : PinId) (mode : BitVec 2) (s : State) : Host.Outcome State Fault Refusal :=
  if mode = 3 then s.acceptReserved
  else if s.params.wf ∧ pin ∈ s.params.busPins then .refused .backlightPinOnBus
  else s.accept ((s.regs.writeBlPin pin).writeBlMode mode) (configBacklightSequence pin) Response.done

/-- The pin operations of `SET_BACKLIGHT` (R169, R171). -/
def setBacklightSequence (r : Regs) (level : Byte) : List PinOp :=
  if r.blPin = pinNone then []
  else if r.blMode = 0 then [.write r.blPin (decide (level ≠ 0))]
  else if r.blMode = 1 then [.write r.blPin (decide (level = 0))]
  else [.duty r.blPin level]

/-- `SET_BACKLIGHT level`; the level is stored with the pin absent too (R171, D29). -/
def execSetBacklight (level : Byte) (s : State) : Host.Outcome State Fault Refusal :=
  s.accept (s.regs.writeBlLevel level) (setBacklightSequence s.regs level) Response.done

end Sys2Proof.Machine
end

