-- ==== Sys2Proof/Machine/Init.lean ====
section
/-! DEFINITION. The Controller State Machine (41_initialization.md): `BEGIN`. -/

namespace Sys2Proof.Machine

/-- The registers after `BEGIN`, all written at acceptance (R115). -/
def beginRegs (p : Params) (r : Regs) (cols rows : Byte) (font5x10 : Bool) : Regs :=
  (((((r.writeNumLines rows).writeFunc p.bus8 (functionFlags p.bus8 rows font5x10)).writeRowOff
    (defaultRowOffsets cols)).writeDctrl flagD).writeEmode flagID).writeCurRow 0

/-- Step 0: every bus pin to output, in the order RS, RW, E, data (R117). -/
def configurePins (p : Params) : List PinOp := p.busPins.map fun pin => .config pin .output

/-- Step 1: the power-up wait, then RS, E and RW low (R118). -/
def powerUpLevels (p : Params) : List PinOp :=
  delay p.timing.tPowerup ++ [.write p.rs false, .write p.e false] ++ p.rwPins.map fun rw => .write rw false

/-- Step 2 on a 4-bit bus: the nibbles 0x3, 0x3, 0x3 with their waits, then 0x2; no select-line writes (R119). -/
def recovery4 (p : Params) (settle : BitVec 16) : List PinOp :=
  clockOut p settle 4 0x3 ++ delay p.timing.tInit4.t0 ++
  clockOut p settle 4 0x3 ++ delay p.timing.tInit4.t1 ++
  clockOut p settle 4 0x3 ++ delay p.timing.tInit4.t2 ++
  clockOut p settle 4 0x2

/-- Step 2 on an 8-bit bus: the function-set byte three times, with its waits (R120). -/
def recovery8 (p : Params) (r : Regs) : List PinOp :=
  command p r.settle (functionSetByte r) ++ delay p.timing.tInit8.t0 ++
  command p r.settle (functionSetByte r) ++ delay p.timing.tInit8.t1 ++
  command p r.settle (functionSetByte r) ++ delay p.timing.tInit8.t2

/-- The transmission of a clear and its wait: `CLEAR` itself (R131) and step 5 of `BEGIN` (R123). -/
def clearSequence (p : Params) (settle : BitVec 16) : List PinOp :=
  command p settle clearDisplayByte ++ delay p.timing.tClear

/-- The whole sequence of `BEGIN`, from the registers it leaves (R125). -/
def beginSequence (p : Params) (r : Regs) : List PinOp :=
  configurePins p ++ powerUpLevels p ++
  (if p.bus8 then recovery8 p r else recovery4 p r.settle) ++
  command p r.settle (functionSetByte r) ++
  command p r.settle (displayControlByte r) ++
  clearSequence p r.settle ++
  command p r.settle (entryModeByte r)

/-- `BEGIN cols, rows [, 5x10]` (R115, R125). -/
def execLcdBegin (cols rows : Byte) (font5x10 : Bool) (s : State) : Host.Outcome State Fault Refusal :=
  let regs := beginRegs s.params s.regs cols rows font5x10
  s.accept regs (beginSequence s.params regs) Response.done

end Sys2Proof.Machine
end

