-- ==== Sys2Proof/Machine/Encoder.lean ====
section
/-! DEFINITION. The Command Encoder (42_command_encoder.md): one meaning per request that sends a bus transaction. -/

namespace Sys2Proof.Machine

/-- Accept a request that leaves these registers and sends this one command byte. -/
def State.acceptCommand (s : State) (regs : Regs) (v : Byte) : Host.Outcome State Fault Refusal :=
  s.accept regs (command s.params regs.settle v) Response.done

/-- The re-send discipline for DCTRL: write the register, then send all of it, changed or not (R130). -/
def State.resendDisplayControl (s : State) (dctrl : Byte) : Host.Outcome State Fault Refusal :=
  let regs := s.regs.writeDctrl dctrl
  s.acceptCommand regs (displayControlByte regs)

/-- The re-send discipline for EMODE (R130). -/
def State.resendEntryMode (s : State) (emode : Byte) : Host.Outcome State Fault Refusal :=
  let regs := s.regs.writeEmode emode
  s.acceptCommand regs (entryModeByte regs)

/-- `CLEAR` (R131). -/
def execClear (s : State) : Host.Outcome State Fault Refusal :=
  s.accept (s.regs.writeCurRow 0) (clearSequence s.params s.regs.settle) Response.done

/-- `HOME` (R132). -/
def execHome (s : State) : Host.Outcome State Fault Refusal :=
  s.accept (s.regs.writeCurRow 0)
    (command s.params s.regs.settle returnHomeByte ++ delay s.params.timing.tHome) Response.done

/-- `SETCURSOR col, row` (R134). -/
def execSetCursor (col row : Byte) (s : State) : Host.Outcome State Fault Refusal :=
  let r := clampRow s.regs.numLines row
  s.acceptCommand (s.regs.writeCurRow r) (setDdramAddrByte (ddramAddress s.regs.rowOff r col))

/-- `DISPLAY_ON` (R136). -/
def execDisplayOn (s : State) : Host.Outcome State Fault Refusal :=
  s.resendDisplayControl (setFlag s.regs.dctrl flagD)

/-- `DISPLAY_OFF` (R137). -/
def execDisplayOff (s : State) : Host.Outcome State Fault Refusal :=
  s.resendDisplayControl (clearFlag s.regs.dctrl flagD)

/-- `CURSOR_ON` (R138). -/
def execCursorOn (s : State) : Host.Outcome State Fault Refusal :=
  s.resendDisplayControl (setFlag s.regs.dctrl flagC)

/-- `CURSOR_OFF` (R139). -/
def execCursorOff (s : State) : Host.Outcome State Fault Refusal :=
  s.resendDisplayControl (clearFlag s.regs.dctrl flagC)

/-- `BLINK_ON` (R140). -/
def execBlinkOn (s : State) : Host.Outcome State Fault Refusal :=
  s.resendDisplayControl (setFlag s.regs.dctrl flagB)

/-- `BLINK_OFF` (R141). -/
def execBlinkOff (s : State) : Host.Outcome State Fault Refusal :=
  s.resendDisplayControl (clearFlag s.regs.dctrl flagB)

/-- `SCROLL_LEFT`; no register is written (R142, C1). -/
def execScrollLeft (s : State) : Host.Outcome State Fault Refusal := s.acceptCommand s.regs scrollLeftByte

/-- `SCROLL_RIGHT`; no register is written (R143, C1). -/
def execScrollRight (s : State) : Host.Outcome State Fault Refusal := s.acceptCommand s.regs scrollRightByte

/-- `LEFT_TO_RIGHT` (R150). -/
def execLeftToRight (s : State) : Host.Outcome State Fault Refusal :=
  s.resendEntryMode (setFlag s.regs.emode flagID)

/-- `RIGHT_TO_LEFT` (R151). -/
def execRightToLeft (s : State) : Host.Outcome State Fault Refusal :=
  s.resendEntryMode (clearFlag s.regs.emode flagID)

/-- `AUTOSCROLL_ON` (R152). -/
def execAutoscrollOn (s : State) : Host.Outcome State Fault Refusal :=
  s.resendEntryMode (setFlag s.regs.emode flagS)

/-- `AUTOSCROLL_OFF` (R153). -/
def execAutoscrollOff (s : State) : Host.Outcome State Fault Refusal :=
  s.resendEntryMode (clearFlag s.regs.emode flagS)

/-- `CREATE_CHAR index, p0..p7`: the CGRAM address of the masked index, then the eight rows unmasked (R144). -/
def execCreateChar (index : Byte) (pattern : Glyph) (s : State) : Host.Outcome State Fault Refusal :=
  s.accept s.regs
    (command s.params s.regs.settle (setCgramAddrByte (cgramAddress index)) ++
      (patternBytes pattern).flatMap (data s.params s.regs.settle))
    Response.done

/-- `WRITE byte`: the byte unchanged, and a count of 1 (R145). -/
def execWrite (value : Byte) (s : State) : Host.Outcome State Fault Refusal :=
  s.accept s.regs (data s.params s.regs.settle value) Response.oneByte

end Sys2Proof.Machine
end

