-- ==== Sys2Proof/Machine/Dispatch.lean ====
section
/-! DEFINITION. The one match from requests to their meanings. -/

namespace Sys2Proof.Machine

def exec (i : Instr) (s : State) : Host.Outcome State Fault Refusal :=
  match i with
  | .lcdBegin cols rows font => Sys2Proof.Machine.execLcdBegin cols rows font s
  | .clear => Sys2Proof.Machine.execClear s
  | .home => Sys2Proof.Machine.execHome s
  | .setCursor col row => Sys2Proof.Machine.execSetCursor col row s
  | .displayOn => Sys2Proof.Machine.execDisplayOn s
  | .displayOff => Sys2Proof.Machine.execDisplayOff s
  | .cursorOn => Sys2Proof.Machine.execCursorOn s
  | .cursorOff => Sys2Proof.Machine.execCursorOff s
  | .blinkOn => Sys2Proof.Machine.execBlinkOn s
  | .blinkOff => Sys2Proof.Machine.execBlinkOff s
  | .scrollLeft => Sys2Proof.Machine.execScrollLeft s
  | .scrollRight => Sys2Proof.Machine.execScrollRight s
  | .leftToRight => Sys2Proof.Machine.execLeftToRight s
  | .rightToLeft => Sys2Proof.Machine.execRightToLeft s
  | .autoscrollOn => Sys2Proof.Machine.execAutoscrollOn s
  | .autoscrollOff => Sys2Proof.Machine.execAutoscrollOff s
  | .createChar index pattern => Sys2Proof.Machine.execCreateChar index pattern s
  | .write value => Sys2Proof.Machine.execWrite value s
  | .setRowOffsets offsets => Sys2Proof.Machine.execSetRowOffsets offsets s
  | .setSettleTime us => Sys2Proof.Machine.execSetSettleTime us s
  | .configBacklight pin mode => Sys2Proof.Machine.execConfigBacklight pin mode s
  | .setBacklight level => Sys2Proof.Machine.execSetBacklight level s

end Sys2Proof.Machine
end

