-- ==== Sys2Proof/Decode.lean ====
section
/-! DEFINITION. The request format (R73), the opcode map (R74), operand assembly (R75), the reserved opcodes (R83) and the
ignored bits (R84); then the encoder (R89) from the same tables. -/

namespace Sys2Proof

/-- `op`, bits 31:27 of the request word (R73). -/
def Request.op (r : Request) : BitVec 5 := r.word.extractLsb' 27 5

/-- `f`, bit 16 of the request word (R73). -/
def Request.f (r : Request) : Bool := r.word.getLsbD 16

/-- `b`, bits 15:8 of the request word (R73). -/
def Request.b (r : Request) : Byte := r.word.extractLsb' 8 8

/-- `a`, bits 7:0 of the request word (R73). -/
def Request.a (r : Request) : Byte := r.word.extractLsb' 0 8

/-- `pay[k] = req_payload[8k+7:8k]` (R55, R73). -/
def Request.pay (r : Request) (k : Nat) : Byte := r.payload.extractLsb' (8 * k) 8

/-- The 16-bit operand `{b, a}`, `b` the high byte (R75). -/
def Request.ba (r : Request) : BitVec 16 := r.b ++ r.a

/-- The two mode bits `b[1:0]`; `b[7:2]` is ignored (R75). -/
def Request.mode (r : Request) : BitVec 2 := r.b.extractLsb' 0 2

/-- `pattern[i] = pay[i]`, i = 0..7 (R75). -/
def Request.glyph (r : Request) : Glyph :=
  ⟨r.pay 0, r.pay 1, r.pay 2, r.pay 3, r.pay 4, r.pay 5, r.pay 6, r.pay 7⟩

/-- `offset[i] = pay[i]`, i = 0..3; `pay[4..7]` is ignored (R75). -/
def Request.rowOffsets (r : Request) : RowOffsets := ⟨r.pay 0, r.pay 1, r.pay 2, r.pay 3⟩

/-- Why a request stands for no instruction. -/
inductive DecodeError where
  /-- `op` is 0x00 or in 0x17..0x1F (R83). -/
  | reservedOpcode (op : BitVec 5)
deriving DecidableEq, Repr

/-- The opcode map of R74, total on every word and payload. Backlight mode 3 decodes: R85 makes it part of the request's
meaning. -/
def decode (r : Request) : Except DecodeError Instr :=
  match r.op.toNat with
  | 0x01 => .ok (.lcdBegin r.a r.b r.f)
  | 0x02 => .ok .clear
  | 0x03 => .ok .home
  | 0x04 => .ok (.setCursor r.a r.b)
  | 0x05 => .ok .displayOn
  | 0x06 => .ok .displayOff
  | 0x07 => .ok .cursorOn
  | 0x08 => .ok .cursorOff
  | 0x09 => .ok .blinkOn
  | 0x0A => .ok .blinkOff
  | 0x0B => .ok .scrollLeft
  | 0x0C => .ok .scrollRight
  | 0x0D => .ok .leftToRight
  | 0x0E => .ok .rightToLeft
  | 0x0F => .ok .autoscrollOn
  | 0x10 => .ok .autoscrollOff
  | 0x11 => .ok (.createChar r.a r.glyph)
  | 0x12 => .ok (.write r.a)
  | 0x13 => .ok (.setRowOffsets r.rowOffsets)
  | 0x14 => .ok (.setSettleTime r.ba)
  | 0x15 => .ok (.configBacklight r.a r.mode)
  | 0x16 => .ok (.setBacklight r.a)
  | _ => .error (.reservedOpcode r.op)

/-- The request whose first `nbits` bits are `w`, the word's bits first and then the payload's, every further bit 0. -/
def layoutRequest (nbits w : Nat) : Request :=
  let v := w % 2 ^ nbits
  ⟨BitVec.ofNat 32 v, BitVec.ofNat 64 (v / 2 ^ 32)⟩

/-- The instruction the decoder reads from a row's bits, numbered as spec/opcode_table.json numbers them. -/
def decodeTableWord (nbits w : Nat) : Option Instr :=
  match decode (layoutRequest nbits w) with
  | .ok i => some i
  | .error _ => none

/-- A request word from its fields, the reserved bits 26:17 zero (R73, R89). -/
def requestWord (op : BitVec 5) (f : Bool) (b a : Byte) : BitVec 32 :=
  op ++ 0#10 ++ BitVec.ofBool f ++ b ++ a

/-- A payload from its eight bytes, byte 0 in bits 7:0 (R55, R73). -/
def payloadOf (g : Glyph) : BitVec 64 := g.p7 ++ g.p6 ++ g.p5 ++ g.p4 ++ g.p3 ++ g.p2 ++ g.p1 ++ g.p0

/-- `op` of each request (R74). -/
def Instr.opcode : Instr → BitVec 5
  | .lcdBegin _ _ _ => 0x01
  | .clear => 0x02
  | .home => 0x03
  | .setCursor _ _ => 0x04
  | .displayOn => 0x05
  | .displayOff => 0x06
  | .cursorOn => 0x07
  | .cursorOff => 0x08
  | .blinkOn => 0x09
  | .blinkOff => 0x0A
  | .scrollLeft => 0x0B
  | .scrollRight => 0x0C
  | .leftToRight => 0x0D
  | .rightToLeft => 0x0E
  | .autoscrollOn => 0x0F
  | .autoscrollOff => 0x10
  | .createChar _ _ => 0x11
  | .write _ => 0x12
  | .setRowOffsets _ => 0x13
  | .setSettleTime _ => 0x14
  | .configBacklight _ _ => 0x15
  | .setBacklight _ => 0x16

/-- The operand `a` of each request, 0 where it takes none (R74, R84). -/
def Instr.operandA : Instr → Byte
  | .lcdBegin cols _ _ => cols
  | .setCursor col _ => col
  | .createChar index _ => index
  | .write v => v
  | .setSettleTime us => us.extractLsb' 0 8
  | .configBacklight pin _ => pin
  | .setBacklight level => level
  | .clear | .home | .displayOn | .displayOff | .cursorOn | .cursorOff | .blinkOn | .blinkOff | .scrollLeft
  | .scrollRight | .leftToRight | .rightToLeft | .autoscrollOn | .autoscrollOff | .setRowOffsets _ => 0

/-- The operand `b` of each request, 0 where it takes none (R74, R84). -/
def Instr.operandB : Instr → Byte
  | .lcdBegin _ rows _ => rows
  | .setCursor _ row => row
  | .setSettleTime us => us.extractLsb' 8 8
  | .configBacklight _ mode => 0#6 ++ mode
  | .clear | .home | .displayOn | .displayOff | .cursorOn | .cursorOff | .blinkOn | .blinkOff | .scrollLeft
  | .scrollRight | .leftToRight | .rightToLeft | .autoscrollOn | .autoscrollOff | .createChar _ _ | .write _
  | .setRowOffsets _ | .setBacklight _ => 0

/-- The operand `f`, read by `BEGIN` alone (R73). -/
def Instr.operandF : Instr → Bool
  | .lcdBegin _ _ font => font
  | .clear | .home | .setCursor _ _ | .displayOn | .displayOff | .cursorOn | .cursorOff | .blinkOn | .blinkOff
  | .scrollLeft | .scrollRight | .leftToRight | .rightToLeft | .autoscrollOn | .autoscrollOff | .createChar _ _
  | .write _ | .setRowOffsets _ | .setSettleTime _ | .configBacklight _ _ | .setBacklight _ => false

/-- The payload bytes, 0 where the request reads none (R73, R75). -/
def Instr.operandPay : Instr → Glyph
  | .createChar _ pattern => pattern
  | .setRowOffsets o => ⟨o.o0, o.o1, o.o2, o.o3, 0, 0, 0, 0⟩
  | .lcdBegin _ _ _ | .clear | .home | .setCursor _ _ | .displayOn | .displayOff | .cursorOn | .cursorOff | .blinkOn
  | .blinkOff | .scrollLeft | .scrollRight | .leftToRight | .rightToLeft | .autoscrollOn | .autoscrollOff | .write _
  | .setSettleTime _ | .configBacklight _ _ | .setBacklight _ => ⟨0, 0, 0, 0, 0, 0, 0, 0⟩

/-- The request the assembler makes of an instruction: `(op << 27) | (f << 16) | (b << 8) | a` and the payload bytes
(R89). -/
def encode (i : Instr) : Request :=
  ⟨requestWord i.opcode i.operandF i.operandB i.operandA, payloadOf i.operandPay⟩

/-- The bits of the request word that the request with this opcode reads (R74, R84). -/
def usedWordBits (op : BitVec 5) : BitVec 32 :=
  match op.toNat with
  | 0x01 => 0xF801FFFF
  | 0x04 | 0x14 => 0xF800FFFF
  | 0x11 | 0x12 | 0x16 => 0xF80000FF
  | 0x15 => 0xF80003FF
  | _ => 0xF8000000

/-- The bits of the payload that the request with this opcode reads (R75, R84). -/
def usedPayloadBits (op : BitVec 5) : BitVec 64 :=
  match op.toNat with
  | 0x11 => 0xFFFFFFFFFFFFFFFF
  | 0x13 => 0x00000000FFFFFFFF
  | _ => 0

/-- The request with every ignored bit written as 0 (R84). -/
def Request.canonical (r : Request) : Request :=
  ⟨r.word &&& usedWordBits r.op, r.payload &&& usedPayloadBits r.op⟩

end Sys2Proof
end

