-- ==== Sys2Proof/Machine/Sequencer.lean ====
section
/-! DEFINITION. The sequencer (R21, R22): what a clock edge samples, which handshake happens at it (R76, R78, R79, R186), and
what each event does to the state. -/

namespace Sys2Proof.Machine

/-- What the next clock edge samples; nothing is driven once the list is used up (log entry 1). -/
def State.edge (s : State) : Inputs := s.inputs.headD Inputs.quiet

/-- The edge has passed. -/
def State.popEdge (s : State) : State := { s with inputs := s.inputs.tail }

/-- The pins the block owns for its lifetime: its bus pins, and BL_PIN when present (R64). -/
def State.ownedPins (s : State) : List PinId :=
  s.params.busPins ++ if s.regs.blPin = pinNone then [] else [s.regs.blPin]

/-- Some other agent drives a pin of the block at this edge (R64, R192). -/
def State.contested (s : State) : Bool := s.edge.otherDrives.any fun pin => decide (pin ∈ s.ownedPins)

/-- The runs the spec asks a model to refuse: an ill-formed construction (R10) and a contested pin (R64). -/
def State.edgeRefusal (s : State) : Option Refusal :=
  if s.params.wf = false then some .illFormedConfiguration
  else if s.contested then some .contestedPin
  else none

/-- `req_ready`: exactly in IDLE with `rst = 0` (R76, R200). -/
def State.reqReady (s : State) : Bool := decide (s.phase = .idle) && !s.edge.rst

/-- The pin operation on the pin-operation channel: `SEQ[USTEP]` while `USTEP < len(SEQ)`, in BUSY with `rst = 0` (R78,
R200). -/
def State.presentedOp (s : State) : Option PinOp :=
  if s.phase = .busy ∧ s.edge.rst = false then s.seq[s.ustep]? else none

/-- The response on the response channel: `RESP` once `USTEP = len(SEQ)`, in BUSY with `rst = 0` (R79, R200). -/
def State.presentedResponse (s : State) : Option Response :=
  if s.phase = .busy ∧ s.edge.rst = false ∧ s.seq.length ≤ s.ustep then some s.resp else none

/-- What happens at a clock edge. At most one event is pending below reset (R186). -/
inductive EdgeEvent where
  /-- `rst = 1`, which wins over everything (R186, R200). -/
  | reset
  /-- The request handshake (R76). -/
  | accept (req : Request)
  /-- The handshake of the presented pin operation (R78). -/
  | perform (op : PinOp)
  /-- The handshake of the response (R79). -/
  | deliver (resp : Response)
  /-- No handshake: the block holds (R196). -/
  | hold
deriving DecidableEq, Repr

/-- The event of the coming edge (R22, R76, R78, R79, R186). -/
def State.edgeEvent (s : State) : EdgeEvent :=
  if s.edge.rst then .reset
  else if s.reqReady then
    if s.edge.reqValid then .accept ⟨s.edge.reqWord, s.edge.reqPayload⟩ else .hold
  else
    match s.presentedOp, s.presentedResponse with
    | some op, _ => if s.edge.poReady then .perform op else .hold
    | none, some resp => if s.edge.respReady then .deliver resp else .hold
    | none, none => .hold

/-- Reset: every register and the sequencer at the reset values, the request in flight abandoned; no pin is driven, and what
was observed stays observed (R200-R202, log entry 5). -/
def State.applyReset (s : State) : State :=
  { State.resetOf s.params with inputs := s.inputs, trace := s.trace, responses := s.responses }

/-- `CUR <- req` (R22, R76). -/
def State.latch (s : State) (req : Request) : State := { s with cur := req }

/-- A pin operation has been performed: it joins the trace and USTEP advances by exactly 1 (R22, R78). -/
def State.perform (s : State) (op : PinOp) : State := { s with trace := s.trace ++ [op], ustep := s.ustep + 1 }

/-- The response has been taken: `PHASE <- IDLE` (R22, R79). -/
def State.deliver (s : State) (resp : Response) : State :=
  { s with responses := s.responses ++ [resp], phase := .idle }

/-- The block in IDLE with this request presented at the next edge, no reset and no other agent on its pins. -/
def State.presentRequest (s : State) (req : Request) : State :=
  let e := { s.edge with rst := false, reqValid := true, reqWord := req.word, reqPayload := req.payload, otherDrives := [] }
  { s with phase := .idle, inputs := e :: s.inputs.tail }

/-- The request in flight brought to its end: the rest of SEQ in the trace, the response taken, IDLE (R22, R62). -/
def State.finish (s : State) : State :=
  { s with
    trace := s.trace ++ s.seq.drop s.ustep
    ustep := max s.ustep s.seq.length
    responses := s.responses ++ [s.resp]
    phase := .idle }

end Sys2Proof.Machine
end

