-- ==== Sys2Proof/Machine/Accept.lean ====
section
/-! DEFINITION. What an accepted request does (R22): the decoded request's meaning, or the abnormal completion of a reserved
opcode (R83); and the big-step reading of one request and of a list of them (R62, D23). -/

namespace Sys2Proof.Machine

/-- Latch the request, decode it, and carry out its rule (R22, R76, R83). -/
def acceptRequest (req : Request) (s : State) : Host.Outcome State Fault Refusal :=
  match decode req with
  | .ok i => exec i (s.latch req)
  | .error _ => (s.latch req).acceptReserved

/-- One request from acceptance to its response (R22, R62): the pure big-step meaning of D23. -/
def serve (req : Request) (s : State) : Host.Outcome State Fault Refusal :=
  match acceptRequest req s with
  | .next t => .next t.finish
  | .fault f => .fault f
  | .refused r => .refused r

/-- Requests served one after the other, in acceptance order (R62). -/
def serveAll : List Request → State → Host.Outcome State Fault Refusal
  | [], s => .next s
  | req :: reqs, s =>
    match serve req s with
    | .next t => serveAll reqs t
    | .fault f => .fault f
    | .refused r => .refused r

end Sys2Proof.Machine
end

