-- ==== Sys2Proof/Machine/Step.lean ====
section
/-! DEFINITION. One step of the machine: one rising edge of `clk`. -/

namespace Sys2Proof.Machine

/-- One rising edge of `clk` (R22, R76, R78, R79, R186, R200). -/
def step (s : State) : Host.Outcome State Fault Refusal :=
  match s.edgeRefusal with
  | some r => .refused r
  | none =>
    match s.edgeEvent with
    | .reset => .next s.popEdge.applyReset
    | .accept req => acceptRequest req s.popEdge
    | .perform op => .next (s.popEdge.perform op)
    | .deliver resp => .next (s.popEdge.deliver resp)
    | .hold => .next s.popEdge

/-- The row's bits as a request presented at the next edge to a block in IDLE: the block fetches nothing (R68), so this is
where its next instruction comes from (log entry 6). -/
def State.withFetchWord (s : State) (nbits w : Nat) : State := s.presentRequest (layoutRequest nbits w)

end Sys2Proof.Machine
end

