-- ==== Sys2Proof/Machine/Pseudo.lean ====
section
/-! DEFINITION. The pseudo-instructions of R90: names of the host's own for lists of requests. -/

namespace Sys2Proof.Machine

/-- The pseudo-instructions of R90. -/
inductive Pseudo where
  /-- `PRINT "s"`. -/
  | print (bytes : List Byte)
  /-- `CURSOR_HOME_FAST`. -/
  | cursorHomeFast
  /-- `BACKLIGHT_ON`. -/
  | backlightOn
  /-- `BACKLIGHT_OFF`. -/
  | backlightOff
deriving DecidableEq, Repr

/-- The requests each expands to (R90). -/
def Pseudo.expand : Pseudo → List Instr
  | .print bytes => bytes.map .write
  | .cursorHomeFast => [.setCursor 0 0]
  | .backlightOn => [.setBacklight 1]
  | .backlightOff => [.setBacklight 0]

end Sys2Proof.Machine
end

