-- ==== Sys2Proof/Machine/Assembler.lean ====
section
/-! DEFINITION. The request assembler of R89, with the pseudo-instructions of R90: one line of text to the requests it stands
for. -/

namespace Sys2Proof.Machine

/-- Why a line is no request. -/
inductive AsmError where
  /-- A quote that is not closed. -/
  | badToken
  /-- The first word is no mnemonic of R74 or R90. -/
  | unknownMnemonic
  /-- The operands are not those of the mnemonic's form (R89), or one does not fit its width (R75). -/
  | badOperands
deriving DecidableEq, Repr

/-- The pieces of a line. -/
inductive Token where
  | word (cs : List Char)
  | comma
  | chr (c : Char)
  | str (cs : List Char)
deriving DecidableEq, Repr

/-- What the lexer is inside of; the characters read so far are held in reverse. -/
inductive LexMode where
  | gap
  | word (acc : List Char)
  | str (acc : List Char)
  /-- After the opening quote of a character literal. -/
  | quote
  /-- After a character literal's character. -/
  | quoted (c : Char)
deriving DecidableEq, Repr

/-- The mode a character outside words and quotes opens; a blank or a comma leaves the lexer where it is. -/
def openMode (c : Char) : LexMode :=
  if c = ' ' ∨ c = '\t' ∨ c = ',' then .gap
  else if c = '"' then .str []
  else if c = '\'' then .quote
  else .word [c]

/-- The token that a comma is, before what follows it. -/
def commaToken (c : Char) : List Token := if c = ',' then [.comma] else []

/-- The tokens of a line; a semicolon outside quotes begins a comment (R89). -/
def lex : List Char → LexMode → Option (List Token)
  | [], .gap => some []
  | [], .word acc => some [.word acc.reverse]
  | [], .str _ => none
  | [], .quote => none
  | [], .quoted _ => none
  | c :: cs, .gap => if c = ';' then some [] else (lex cs (openMode c)).map (commaToken c ++ ·)
  | c :: cs, .word acc =>
    if c = ';' then some [.word acc.reverse]
    else if c = ' ' ∨ c = '\t' ∨ c = ',' then (lex cs .gap).map (Token.word acc.reverse :: commaToken c ++ ·)
    else lex cs (.word (c :: acc))
  | c :: cs, .str acc => if c = '"' then (lex cs .gap).map (Token.str acc.reverse :: ·) else lex cs (.str (c :: acc))
  | c :: cs, .quote => lex cs (.quoted c)
  | c :: cs, .quoted x => if c = '\'' then (lex cs .gap).map (Token.chr x :: ·) else none

/-- The value of a digit in the given base. -/
def digitValue (base : Nat) (c : Char) : Option Nat :=
  let n := c.toNat
  let v :=
    if 48 ≤ n ∧ n ≤ 57 then n - 48
    else if 65 ≤ n ∧ n ≤ 70 then n - 55
    else if 97 ≤ n ∧ n ≤ 102 then n - 87
    else base
  if v < base then some v else none

/-- The digits read in the given base, most significant first. -/
def digitsValue (base : Nat) : Nat → List Char → Option Nat
  | acc, [] => some acc
  | acc, c :: cs =>
    match digitValue base c with
    | some v => digitsValue base (acc * base + v) cs
    | none => none

/-- "Numbers are decimal or `0x` hex" (R89). -/
def numberValue : List Char → Option Nat
  | [] => none
  | '0' :: 'x' :: d :: ds => digitsValue 16 0 (d :: ds)
  | d :: ds => digitsValue 10 0 (d :: ds)

/-- The number when it fits the width. -/
def fits (w n : Nat) : Option (BitVec w) := if n < 2 ^ w then some (BitVec.ofNat w n) else none

/-- A numeric operand of the given width. -/
def numberOperand (w : Nat) : Token → Option (BitVec w)
  | .word cs => (numberValue cs).bind (fits w)
  | .comma | .chr _ | .str _ => none

/-- The operand of `WRITE`: "a character literal 'c' is its 8-bit code" (R89). -/
def byteOperand : Token → Option Byte
  | .chr c => fits 8 c.toNat
  | .word cs => numberOperand 8 (.word cs)
  | .comma | .str _ => none

/-- `NORMAL|INVERTED|PWM`, or the mode's number (R89, R169). -/
def modeOperand : Token → Option (BitVec 2)
  | .word cs =>
    if cs = "NORMAL".toList then some 0
    else if cs = "INVERTED".toList then some 1
    else if cs = "PWM".toList then some 2
    else numberOperand 2 (.word cs)
  | .comma | .chr _ | .str _ => none

/-- The operands of a line, which commas separate (R89). -/
def operands : List Token → Option (List Token)
  | [] => some []
  | [.comma] => none
  | [t] => some [t]
  | .comma :: _ => none
  | t :: .comma :: u :: rest => (operands (u :: rest)).map (t :: ·)
  | _ => none

/-- The mnemonics without operands (R89). -/
def plainMnemonics : List (String × Instr) :=
  [("CLEAR", .clear), ("HOME", .home), ("DISPLAY_ON", .displayOn), ("DISPLAY_OFF", .displayOff),
   ("CURSOR_ON", .cursorOn), ("CURSOR_OFF", .cursorOff), ("BLINK_ON", .blinkOn), ("BLINK_OFF", .blinkOff),
   ("SCROLL_LEFT", .scrollLeft), ("SCROLL_RIGHT", .scrollRight), ("LEFT_TO_RIGHT", .leftToRight),
   ("RIGHT_TO_LEFT", .rightToLeft), ("AUTOSCROLL_ON", .autoscrollOn), ("AUTOSCROLL_OFF", .autoscrollOff)]

/-- The pseudo-instructions without operands (R90). -/
def plainPseudos : List (String × Pseudo) :=
  [("CURSOR_HOME_FAST", .cursorHomeFast), ("BACKLIGHT_ON", .backlightOn), ("BACKLIGHT_OFF", .backlightOff)]

/-- The entry of a mnemonic. -/
def lookupMnemonic {α : Type} (table : List (String × α)) (m : List Char) : Option α :=
  (table.find? fun e => decide (e.1.toList = m)).map Prod.snd

/-- `BEGIN cols, rows [, 5x10]` (R89). -/
def assembleBegin : List Token → Option Instr
  | [c, r] => (numberOperand 8 c).bind fun cols => (numberOperand 8 r).map fun rows => .lcdBegin cols rows false
  | [c, r, .word font] =>
    if font = "5x10".toList then
      (numberOperand 8 c).bind fun cols => (numberOperand 8 r).map fun rows => .lcdBegin cols rows true
    else none
  | _ => none

/-- The eight rows of `CREATE_CHAR` (R89). -/
def glyphOperand (ts : List Token) : Option Glyph :=
  match ts.mapM (numberOperand 8) with
  | some [p0, p1, p2, p3, p4, p5, p6, p7] => some ⟨p0, p1, p2, p3, p4, p5, p6, p7⟩
  | _ => none

/-- The four offsets of `SET_ROW_OFFSETS` (R89). -/
def offsetsOperand (ts : List Token) : Option RowOffsets :=
  match ts.mapM (numberOperand 8) with
  | some [o0, o1, o2, o3] => some ⟨o0, o1, o2, o3⟩
  | _ => none

/-- A mnemonic with operands: the form it has (R89), read from its operands. -/
def operandForms : List (String × (List Token → Option Instr)) :=
  [("BEGIN", assembleBegin),
   ("SETCURSOR", fun
     | [c, r] => (numberOperand 8 c).bind fun col => (numberOperand 8 r).map fun row => .setCursor col row
     | _ => none),
   ("CREATE_CHAR", fun
     | i :: rows => (numberOperand 8 i).bind fun index => (glyphOperand rows).map fun g => .createChar index g
     | [] => none),
   ("WRITE", fun
     | [t] => (byteOperand t).map .write
     | _ => none),
   ("SET_ROW_OFFSETS", fun ts => (offsetsOperand ts).map .setRowOffsets),
   ("SET_SETTLE_TIME", fun
     | [t] => (numberOperand 16 t).map .setSettleTime
     | _ => none),
   ("CONFIG_BACKLIGHT", fun
     | [p, m] => (numberOperand 8 p).bind fun pin => (modeOperand m).map fun mode => .configBacklight pin mode
     | _ => none),
   ("SET_BACKLIGHT", fun
     | [t] => (numberOperand 8 t).map .setBacklight
     | _ => none)]

/-- The bytes of a printed string (R90). -/
def stringBytes (cs : List Char) : Option (List Byte) := cs.mapM fun c => fits 8 c.toNat

/-- The requests of a mnemonic and its operands; `none` when the operands do not fit its form. -/
def assembleForm (m : List Char) (ops : List Token) : Except AsmError (List Instr) :=
  match lookupMnemonic plainMnemonics m, lookupMnemonic plainPseudos m, lookupMnemonic operandForms m with
  | some i, _, _ => if ops = [] then .ok [i] else .error .badOperands
  | none, some p, _ => if ops = [] then .ok p.expand else .error .badOperands
  | none, none, some form =>
    match form ops with
    | some i => .ok [i]
    | none => .error .badOperands
  | none, none, none =>
    if m = "PRINT".toList then
      match ops with
      | [.str cs] =>
        match stringBytes cs with
        | some bytes => .ok (Pseudo.print bytes).expand
        | none => .error .badOperands
      | _ => .error .badOperands
    else .error .unknownMnemonic

/-- One line of request assembly (R89); a blank line or a comment stands for no request. -/
def assembleLine (line : String) : Except AsmError (List Instr) :=
  match lex line.toList .gap with
  | none => .error .badToken
  | some [] => .ok []
  | some (.word m :: ts) =>
    match operands ts with
    | some ops => assembleForm m ops
    | none => .error .badOperands
  | some _ => .error .unknownMnemonic

end Sys2Proof.Machine
end

