-- ==== Sys2Proof/Machine/Ports.lean ====
section
/-! DEFINITION. The block's output ports, as a function of the state and the coming edge (R70-R72, R77-R79). -/

namespace Sys2Proof.Machine

/-- The direction as `configure` takes it: 1 output, 0 input (R77, D36). -/
def Direction.code : Direction → BitVec 1
  | .input => 0
  | .output => 1

/-- `po_kind` (R72, R77). -/
def PinOp.kind : PinOp → BitVec 2
  | .config _ _ => 0
  | .write _ _ => 1
  | .delay _ => 2
  | .duty _ _ => 3

/-- `po_pin`; 0 for DELAY (R72, R77). -/
def PinOp.pin : PinOp → PinId
  | .config p _ => p
  | .write p _ => p
  | .delay _ => 0
  | .duty p _ => p

/-- `po_val`: direction, level, microseconds or duty, zero-extended (R77). -/
def PinOp.val : PinOp → BitVec 32
  | .config _ d => d.code.setWidth 32
  | .write _ l => (BitVec.ofBool l).setWidth 32
  | .delay n => n
  | .duty _ x => x.setWidth 32

/-- The pin-operation channel's three data lines (R72). -/
structure PinOpLines where
  kind : BitVec 2
  pin  : PinId
  val  : BitVec 32
deriving DecidableEq, Repr

/-- The outputs of the block. A channel whose valid line is 0 carries no value here (log entry 7). -/
structure Outputs where
  reqReady : Bool
  /-- `po_valid` is 1 exactly when this is present. -/
  pinOp    : Option PinOpLines
  /-- `resp_valid` is 1 exactly when this is present. -/
  response : Option Response
deriving DecidableEq, Repr

/-- The operation on the channel's lines (R77). -/
def PinOp.lines (op : PinOp) : PinOpLines := ⟨op.kind, op.pin, op.val⟩

/-- The outputs before the coming edge (R76, R78, R79, R200). -/
def State.outputs (s : State) : Outputs := ⟨s.reqReady, s.presentedOp.map PinOp.lines, s.presentedResponse⟩

end Sys2Proof.Machine
end

