-- ==== Sys2Proof/Safety.lean ====
section
/-! DEFINITION. The terms claims are made in: what a safe run is, what a pin trace clocks out on the bus as the controller
samples it (R54, R65), what an accepted request leaves unchanged, and the invariant of the block's state. Nothing here is part
of the machine. -/

namespace Sys2Proof.Safety

open Sys2Proof.Machine

/-- A run of `n` edges that neither faults nor is refused. -/
def SafeFor (n : Nat) (s : State) : Prop := ∃ t, Sys2Proof.core.run n s = .next t

/-- `t` is `s` with a request just accepted: these registers and this response, some sequence at its first operation, BUSY;
the parameters, CUR, the inputs, the trace and the responses are those of `s` (R22). -/
def Started (s t : State) (regs : Regs) (resp : Response) : Prop :=
  t = { s with regs := regs, resp := resp, seq := t.seq, ustep := 0, phase := .busy }

/-- The state with the request in flight, if there is one, brought to its end, and the coming edges forgotten: what a reader
who ignores the timing of the handshakes sees (R62). -/
def completedView (s : State) : State := { (if s.phase = .busy then s.finish else s) with inputs := [] }

/-! ### The bus as the controller sees it -/

/-- What each pin is driven to. -/
abbrev Levels := PinId → Bool

/-- The levels with one pin driven. -/
def drive (lv : Levels) (pin : PinId) (level : Bool) : Levels := fun q => if q = pin then level else lv q

/-- The levels after these operations. -/
def levelsAfter : Levels → List PinOp → Levels
  | lv, [] => lv
  | lv, .write pin level :: ops => levelsAfter (drive lv pin level) ops
  | lv, .config _ _ :: ops | lv, .delay _ :: ops | lv, .duty _ _ :: ops => levelsAfter lv ops

/-- The value on the data pins in use, `P_DATA[i]` read as bit `i`; on a 4-bit bus, the nibble in bits 3:0 (R54). -/
def dataValue (p : Params) (lv : Levels) : Byte :=
  p.dataPins.foldr (fun pin acc => (acc <<< 1) ||| (BitVec.ofBool (lv pin)).setWidth 8) 0

/-- What the bus shows over time. -/
inductive BusEvent where
  /-- A falling edge of E: RS and the data lines as they are sampled (R65, R105). -/
  | latch (rs : Bool) (value : Byte)
  /-- A DELAY while E is low, in microseconds. -/
  | wait (us : Nat)
deriving DecidableEq, Repr

/-- The events of a list of pin operations, from these levels. -/
def busEvents (p : Params) : Levels → List PinOp → List BusEvent
  | _, [] => []
  | lv, .write pin level :: ops =>
    let rest := busEvents p (drive lv pin level) ops
    if pin = p.e ∧ level = false ∧ lv p.e = true then .latch (lv p.rs) (dataValue p lv) :: rest else rest
  | lv, .delay n :: ops =>
    let rest := busEvents p lv ops
    if lv p.e then rest else .wait n.toNat :: rest
  | lv, .config _ _ :: ops | lv, .duty _ _ :: ops => busEvents p lv ops

/-- A wait of `n` microseconds; none when `n = 0` (R106). -/
def waitEvents (n : Nat) : List BusEvent := if n = 0 then [] else [.wait n]

/-- One 4-bit clock-out and its settle delay. -/
def nibbleEvents (settle : BitVec 16) (rs : Bool) (x : Nibble) : List BusEvent :=
  .latch rs (x.setWidth 8) :: waitEvents settle.toNat

/-- One byte: one clock-out on an 8-bit bus, two on a 4-bit bus, the high nibble first, each with its settle delay (R54,
R100). -/
def byteEvents (p : Params) (settle : BitVec 16) (rs : Bool) (v : Byte) : List BusEvent :=
  if p.bus8 then .latch rs v :: waitEvents settle.toNat
  else nibbleEvents settle rs (v.extractLsb' 4 4) ++ nibbleEvents settle rs (v.extractLsb' 0 4)

/-- The sequence of `t` is these operations, and whatever the pins hold before, E low among them, it shows exactly these events on
the bus of `s`. -/
def Sends (s t : State) (ops : List PinOp) (events : List BusEvent) : Prop :=
  t.seq = ops ∧ ∀ lv : Levels, lv s.params.e = false → busEvents s.params lv t.seq = events

/-- The events that are clock-outs. -/
def latches : List BusEvent → List (Bool × Byte)
  | [] => []
  | .latch rs v :: es => (rs, v) :: latches es
  | .wait _ :: es => latches es

/-- Nibbles taken two by two, high first; RS is that of the first. -/
def pairNibbles : List (Bool × Byte) → List (Bool × Byte)
  | (rs, hi) :: (_, lo) :: rest => (rs, (hi <<< 4) ||| lo) :: pairNibbles rest
  | [_] => []
  | [] => []

/-- The bytes clocked out, with RS. -/
def busBytes (p : Params) (es : List BusEvent) : List (Bool × Byte) :=
  if p.bus8 then latches es else pairNibbles (latches es)

/-- The command bytes clocked out: those with RS low (R103). -/
def commandBytes (p : Params) (es : List BusEvent) : List Byte :=
  ((busBytes p es).filter fun b => !b.1).map Prod.snd

/-- A FUNCTIONSET byte by its leading bits (R80). -/
def isFunctionSet (v : Byte) : Bool := decide (v &&& 0xE0 = 0x20)

/-- A DISPLAYCONTROL byte by its leading bits (R80). -/
def isDisplayControl (v : Byte) : Bool := decide (v &&& 0xF8 = 0x08)

/-- An ENTRYMODESET byte by its leading bits (R80). -/
def isEntryModeSet (v : Byte) : Bool := decide (v &&& 0xFC = 0x04)

/-- The command forms of R80, with R87's limits: no cursor move, no bit outside the register fields. -/
def isCommandForm (v : Byte) : Bool :=
  decide (v = 0x01) || decide (v = 0x02) || isEntryModeSet v || isDisplayControl v || decide (v = 0x18) ||
  decide (v = 0x1C) || decide (v &&& 0xE3 = 0x20) || decide (v &&& 0xC0 = 0x40) || decide (v &&& 0x80 = 0x80)

/-- RS, RW and data pins are written only while E is low, from the given level of E on (R210). -/
def changesOnlyWhileELow (p : Params) : Bool → List PinOp → Bool
  | _, [] => true
  | e, .write pin level :: ops =>
    if pin = p.e then changesOnlyWhileELow p level ops
    else (!e || !decide (pin ∈ p.busPins)) && changesOnlyWhileELow p e ops
  | e, .config _ _ :: ops | e, .delay _ :: ops | e, .duty _ _ :: ops => changesOnlyWhileELow p e ops

/-- The pin an operation names; DELAY names none. -/
def opPin : PinOp → Option PinId
  | .config pin _ => some pin
  | .write pin _ => some pin
  | .delay _ => none
  | .duty pin _ => some pin

/-! ### The invariant -/

/-- What holds of every pin operation of the block: no CONFIG to input, no DELAY of 0, no absent pin, RW never high (R77,
R87, R106). -/
def LegalOp (p : Params) (op : PinOp) : Prop :=
  match op with
  | .config pin dir => pin ≠ pinNone ∧ dir = .output
  | .write pin level => pin ≠ pinNone ∧ (pin = p.rw → level = false)
  | .delay n => n ≠ 0
  | .duty pin _ => pin ≠ pinNone

/-- What holds of the registers in every state a well-formed block reaches. -/
structure RegsInv (p : Params) (r : Regs) : Prop where
  /-- DL is P_BUS8 and the unused bits of FUNC are 0 (R24, R27). -/
  func : r.func &&& 0xF3 = if p.bus8 then 0x10 else 0x00
  /-- The 5×10 font is never set with two lines (R115). -/
  font : ¬(r.func.getLsbD 3 = true ∧ r.func.getLsbD 2 = true)
  /-- The unused bits of DCTRL are 0 (R25). -/
  dctrl : r.dctrl &&& 0xF8 = 0
  /-- The unused bits of EMODE are 0 (R26). -/
  emode : r.emode &&& 0xFC = 0
  /-- `SETTLE >= 1` (R30). -/
  settle : r.settle ≠ 0
  /-- BL_MODE 3 is never stored (R31). -/
  blMode : r.blMode ≠ 3
  /-- The backlight pin is no bus pin (R170). -/
  blPin : r.blPin ∉ p.busPins
  /-- CUR_ROW is one of the usable rows (R32, R135). -/
  curRow : r.curRow.toNat < usableLines r.numLines

/-- The invariant of the state. -/
structure Inv (s : State) : Prop where
  /-- The construction is well-formed (R10, R11). -/
  wf : s.params.wf = true
  /-- The registers. -/
  regs : RegsInv s.params s.regs
  /-- `0 <= USTEP <= len(SEQ)` (R21). -/
  ustep : s.ustep ≤ s.seq.length
  /-- Every operation of SEQ. -/
  seq : ∀ op ∈ s.seq, LegalOp s.params op
  /-- Every operation performed so far. -/
  trace : ∀ op ∈ s.trace, LegalOp s.params op
  /-- RESP is one of the three responses (R79). -/
  resp : s.resp = Response.done ∨ s.resp = Response.oneByte ∨ s.resp = Response.reserved

/-! ### Flags as Booleans, for claims about toggles -/

/-- The five toggled flags (R25, R26). -/
structure Flags where
  d  : Bool
  c  : Bool
  b  : Bool
  id : Bool
  s  : Bool
deriving DecidableEq, Repr

/-- DCTRL with these flags (R25). -/
def dctrlOf (d c b : Bool) : Byte := (if d then 4 else 0) + (if c then 2 else 0) + (if b then 1 else 0)

/-- EMODE with these flags (R26). -/
def emodeOf (id s : Bool) : Byte := (if id then 2 else 0) + (if s then 1 else 0)

/-- The flags the registers hold (R25, R26). -/
def flagsOf (r : Regs) : Flags :=
  ⟨r.dctrl.getLsbD 2, r.dctrl.getLsbD 1, r.dctrl.getLsbD 0, r.emode.getLsbD 1, r.emode.getLsbD 0⟩

/-- The ten toggle requests (R136-R141, R150-R153). -/
inductive Toggle where
  | displayOn | displayOff | cursorOn | cursorOff | blinkOn | blinkOff
  | leftToRight | rightToLeft | autoscrollOn | autoscrollOff
deriving DecidableEq, Repr

/-- The request each toggle is. -/
def Toggle.instr : Toggle → Instr
  | .displayOn => .displayOn
  | .displayOff => .displayOff
  | .cursorOn => .cursorOn
  | .cursorOff => .cursorOff
  | .blinkOn => .blinkOn
  | .blinkOff => .blinkOff
  | .leftToRight => .leftToRight
  | .rightToLeft => .rightToLeft
  | .autoscrollOn => .autoscrollOn
  | .autoscrollOff => .autoscrollOff

/-- The one field each toggle writes, as a change of the flags. -/
def Toggle.apply : Toggle → Flags → Flags
  | .displayOn, f => { f with d := true }
  | .displayOff, f => { f with d := false }
  | .cursorOn, f => { f with c := true }
  | .cursorOff, f => { f with c := false }
  | .blinkOn, f => { f with b := true }
  | .blinkOff, f => { f with b := false }
  | .leftToRight, f => { f with id := true }
  | .rightToLeft, f => { f with id := false }
  | .autoscrollOn, f => { f with s := true }
  | .autoscrollOff, f => { f with s := false }

/-- The field each toggle writes, by number. -/
def Toggle.field : Toggle → Nat
  | .displayOn | .displayOff => 0
  | .cursorOn | .cursorOff => 1
  | .blinkOn | .blinkOff => 2
  | .leftToRight | .rightToLeft => 3
  | .autoscrollOn | .autoscrollOff => 4

/-- The byte a toggle sends from the flags it leaves: its register's base command ORed with all of them (R130). -/
def Toggle.byte (t : Toggle) (f : Flags) : Byte :=
  if t.field < 3 then 0x08 ||| dctrlOf f.d f.c f.b else 0x04 ||| emodeOf f.id f.s

/-- The flags after a list of toggles. -/
def flagsAfter (f : Flags) (ts : List Toggle) : Flags := ts.foldl (fun f t => t.apply f) f

/-- What a list of toggles sends: one command each, with the flags as they are then. -/
def toggleEvents (p : Params) (settle : BitVec 16) : Flags → List Toggle → List BusEvent
  | _, [] => []
  | f, t :: ts => byteEvents p settle false (t.byte (t.apply f)) ++ toggleEvents p settle (t.apply f) ts

/-! ### Timing -/

/-- The recovery waits keep the two minimums of R208, 4.1 ms and 100 µs. PRESUMED (log entry 19): the spec names the two figures
and not the tiers they bind; the model binds 4.1 ms to tier 0, 100 µs to tier 1 and nothing to tier 2, on both bus widths. -/
def recoveryMeetsMinimums (t : Tiers) : Bool := decide (4100 ≤ t.t0.toNat) && decide (100 ≤ t.t1.toNat)

/-- The power-up wait the model asks for, in microseconds. DESIGN CHOICE (log entry 20): the spec gives the range 40-50 ms alone
(R118, R205); the model takes its upper end. -/
def powerUpMinimum : Nat := 50000

/-- The enable hold the model asks for, in whole microseconds: the 450 ns of R209 rounded up (DEDUCED, log entry 21). -/
def enableHighMinimum : Nat := 1

/-- The execution time of most commands and data writes, in microseconds (R206). That "about 37" is 37 is a DESIGN CHOICE (log
entry 21). -/
def executionMinimum : Nat := 37

/-- The execution time of clear and return-home, in microseconds (R207). That "about 1.52 ms" is 1520 is a DESIGN CHOICE (log entry
21). -/
def slowExecutionMinimum : Nat := 1520

/-- The premises under which the block respects the controller's timing: PORT_SETUP_OK, which is the platform's (R210, D37), and
waits no shorter than the controller needs (R205-R209, with the model's choices of log entries 19, 20 and 21). Otherwise it may
violate that timing, and does not detect it (R184). -/
def timingMeetsController (p : Params) (settle : BitVec 16) : Bool :=
  p.portSetupOk && decide (enableHighMinimum ≤ p.timing.tEHigh.toNat) && decide (executionMinimum ≤ settle.toNat) &&
  decide (slowExecutionMinimum ≤ p.timing.tClear.toNat) && decide (slowExecutionMinimum ≤ p.timing.tHome.toNat) &&
  recoveryMeetsMinimums p.timing.tInit4 && recoveryMeetsMinimums p.timing.tInit8 && decide (powerUpMinimum ≤ p.timing.tPowerup.toNat)

/-- At every rise of E, the RS, RW and data lines have been set up: a DELAY has passed since the last of them was written, or the
port's own latency is enough (PORT_SETUP_OK, R210). The flag says that a DELAY has passed; any DELAY is at least 1 µs, above the
"tens of nanoseconds" of R210 (DESIGN CHOICE, log entry 21). -/
def setupTimesMet (p : Params) : Bool → List PinOp → Bool
  | _, [] => true
  | settled, .write pin level :: ops =>
    if pin = p.e then (!level || settled || p.portSetupOk) && setupTimesMet p settled ops
    else setupTimesMet p (settled && !decide (pin ∈ p.busPins)) ops
  | settled, .delay n :: ops => setupTimesMet p (settled || decide (n ≠ 0)) ops
  | settled, .config _ _ :: ops | settled, .duty _ _ :: ops => setupTimesMet p settled ops

/-- Every sample of the bus is followed at once by a wait of at least `n` microseconds. -/
def samplesFollowedByWait (n : Nat) : List BusEvent → Bool
  | [] => true
  | .wait _ :: es => samplesFollowedByWait n es
  | .latch _ _ :: .wait m :: es => decide (n ≤ m) && samplesFollowedByWait n es
  | .latch _ _ :: _ => false

end Sys2Proof.Safety
end

