-- ==== Sys2Proof/Certificates/Slice0/Obligations.lean ====
section
/-! DEFINITION. The statements for the provers. Each docstring names the rules of spec/ the statement formalises; where a
clause rests on a choice of the model, it names the log entry. -/

open Sys2Proof Sys2Proof.Machine Sys2Proof.Safety

/-! ### Requests and their encoding -/

/-- R73, R74, R75, R89: decoding the encoder's request gives the instruction back, at every operand. -/
def Obligations.DecodeOfEncodeGivesBackTheInstruction : Prop :=
  ∀ i : Instr, decode (encode i) = .ok i

/-- R84: the ignored bits are the ones it lists, and writing them as 0 changes neither the decoded instruction nor anything
the request does, CUR itself apart. -/
def Obligations.IgnoredBitsChangeNothing : Prop :=
  ∀ (r : Request) (s : State),
    r.canonical.word &&& 0x07FE0000 = 0 ∧
    (r.op ≠ 0x01 → r.canonical.f = false) ∧
    (r.op ∉ [0x01, 0x04, 0x11, 0x12, 0x14, 0x15, 0x16] → r.canonical.a = 0) ∧
    (r.op ∉ [0x01, 0x04, 0x14, 0x15] → r.canonical.b = 0) ∧
    (r.op = 0x15 → r.canonical.b &&& 0xFC = 0) ∧
    (r.op ≠ 0x11 → r.canonical.payload >>> 32 = 0) ∧
    (r.op ∉ [0x11, 0x13] → r.canonical.payload = 0) ∧
    decode r.canonical = decode r ∧
    acceptRequest r.canonical s =
      match acceptRequest r s with
      | .next t => .next { t with cur := r.canonical }
      | .fault x => .fault x
      | .refused x => .refused x

/-- R83: a reserved opcode writes no register, emits nothing and answers (0, 1); every other opcode is an instruction. -/
def Obligations.ReservedOpcodesAreFlaggedNoOps : Prop :=
  (∀ (req : Request) (s : State), s.params.wf = true → req.op.toNat = 0x00 ∨ 0x17 ≤ req.op.toNat →
    acceptRequest req s =
      .next { s with cur := req, seq := [], resp := ⟨0, true⟩, ustep := 0, phase := .busy }) ∧
  (∀ req : Request, req.op.toNat ≠ 0x00 → req.op.toNat < 0x17 → ∃ i, decode req = .ok i)

/-- Words written out from R73 and R74, one for each family and each operand shape. -/
def Obligations.WordsOfTheSpecDecode : Prop :=
  decode ⟨0x08010210, 0⟩ = .ok (.lcdBegin 16 2 true) ∧
  decode ⟨0x10000000, 0⟩ = .ok .clear ∧
  decode ⟨0x20000703, 0⟩ = .ok (.setCursor 3 7) ∧
  decode ⟨0x28000000, 0⟩ = .ok .displayOn ∧
  decode ⟨0x60000000, 0⟩ = .ok .scrollRight ∧
  decode ⟨0x80000000, 0⟩ = .ok .autoscrollOff ∧
  decode ⟨0x88000009, 0x0000040E1F1F0A00⟩ =
    .ok (.createChar 9 ⟨0x00, 0x0A, 0x1F, 0x1F, 0x0E, 0x04, 0x00, 0x00⟩) ∧
  decode ⟨0x90000041, 0⟩ = .ok (.write 0x41) ∧
  decode ⟨0x98000000, 0x54144000⟩ = .ok (.setRowOffsets ⟨0x00, 0x40, 0x14, 0x54⟩) ∧
  decode ⟨0xA0001234, 0⟩ = .ok (.setSettleTime 0x1234) ∧
  decode ⟨0xA8000109, 0⟩ = .ok (.configBacklight 9 1) ∧
  decode ⟨0xB00000FF, 0⟩ = .ok (.setBacklight 255) ∧
  decode ⟨0xB8000000, 0⟩ = .error (.reservedOpcode 0x17)

/-! ### The Bus Transport -/

/-- R101-R106: the pin operations of a transmit, a nibble's clock-out, a pulse and a delay, written out for both bus widths. -/
def Obligations.TransmitEmitsThesePinOperations : Prop :=
  ∀ (p : Params) (settle : BitVec 16) (v : Byte) (rs : Bool),
    let wait := fun n : Micros => if n = 0 then [] else [PinOp.delay n]
    let strobe := [PinOp.write p.e true] ++ wait p.timing.tEHigh ++ [.write p.e false] ++ wait (settle.setWidth 32)
    let select := [PinOp.write p.rs rs] ++ if p.rw = pinNone then [] else [.write p.rw false]
    let out := fun i j : Nat => PinOp.write (p.data.toList.getD i 0) (v.getLsbD j)
    (p.bus8 = true →
      transmit p settle v rs =
        select ++ [out 0 0, out 1 1, out 2 2, out 3 3, out 4 4, out 5 5, out 6 6, out 7 7] ++ strobe) ∧
    (p.bus8 = false →
      transmit p settle v rs =
        select ++ [out 0 4, out 1 5, out 2 6, out 3 7] ++ strobe ++ [out 0 0, out 1 1, out 2 2, out 3 3] ++ strobe) ∧
    command p settle v = transmit p settle v false ∧
    data p settle v = transmit p settle v true ∧
    (∀ x : Nibble,
      clockOut p settle 4 x =
        [0, 1, 2, 3].map (fun i => PinOp.write (p.data.toList.getD i 0) (x.getLsbD i)) ++ strobe) ∧
    pulse p settle = strobe ∧
    ∀ n : Micros, delay n = wait n

/-- R54, R100, R102: on a well-formed block, whatever the pins held with E low, a transmit has the bus sample the byte with its
RS: once on an 8-bit bus, as two nibbles, high first, on a 4-bit bus; each sample is followed by the settle delay, and E is
left low. -/
def Obligations.TransmitClocksOutTheByte : Prop :=
  ∀ (p : Params) (settle : BitVec 16) (v : Byte) (rs : Bool) (lv : Levels),
    p.wf = true → lv p.e = false →
    busEvents p lv (transmit p settle v rs) = byteEvents p settle rs v ∧
    levelsAfter lv (transmit p settle v rs) p.e = false ∧
    (p.rw ≠ pinNone → levelsAfter lv (transmit p settle v rs) p.rw = false)

/-- R108, which the spec derives: the pin-operation count of a transmit, the four construction variants. -/
def Obligations.TransmitOperationCount : Prop :=
  ∀ (p : Params) (settle : BitVec 16) (v : Byte) (rs : Bool),
    p.timing.tEHigh ≠ 0 → settle ≠ 0 →
    (transmit p settle v rs).length =
      (if p.bus8 then 13 else 17) + (if p.rw = pinNone then 0 else 1)

/-! ### BEGIN -/

/-- R115, R116, R128: `BEGIN` is accepted at every operand; the registers it writes, those it does not, its response and its
encoding. -/
def Obligations.BeginWritesItsRegisters : Prop :=
  ∀ (s : State) (cols rows : Byte) (font5x10 : Bool), s.params.wf = true →
    (encode (.lcdBegin cols rows font5x10)).word =
      0x08000000 ||| (if font5x10 then 0x00010000 else 0) ||| (rows.setWidth 32 <<< 8) ||| cols.setWidth 32 ∧
    ∃ t, exec (.lcdBegin cols rows font5x10) s = .next t ∧
      Started s t
        { s.regs with
          numLines := rows
          func := (if s.params.bus8 then 0x10 else 0x00) +
            (if rows.toNat > 1 then 0x08 else if font5x10 then 0x04 else 0x00)
          rowOff := ⟨0x00, 0x40, cols, BitVec.ofNat 8 (0x40 + cols.toNat)⟩
          dctrl := 0x04
          emode := 0x02
          curRow := 0 }
        ⟨0, false⟩

/-- R117-R124: the sequence of `BEGIN`. First the CONFIG of every bus pin, the power-up wait and the initial levels, written out;
then the clock-outs, commands and delays of the recovery of the bus width, and the function-set, display-control, clear and
entry-mode commands; and what the bus shows of these. Then the default waits. -/
def Obligations.BeginRunsTheInitializationSequence : Prop :=
  (∀ (s : State) (cols rows : Byte) (font5x10 : Bool), s.params.wf = true →
    ∃ t rest, exec (.lcdBegin cols rows font5x10) s = .next t ∧ t.regs.curRow = 0 ∧ t.resp = ⟨0, false⟩ ∧
      let p := s.params
      let st := s.regs.settle
      let fset : Byte := 0x20 + (if p.bus8 then 0x10 else 0x00) +
        (if rows.toNat > 1 then 0x08 else if font5x10 then 0x04 else 0x00)
      t.seq =
        [.config p.rs .output] ++ (if p.rw = pinNone then [] else [.config p.rw .output]) ++ [.config p.e .output] ++
        (p.data.toList.take (if p.bus8 then 8 else 4)).map (fun pin => .config pin .output) ++
        (if p.timing.tPowerup = 0 then [] else [.delay p.timing.tPowerup]) ++
        [.write p.rs false, .write p.e false] ++ (if p.rw = pinNone then [] else [.write p.rw false]) ++ rest ∧
      rest =
        (if p.bus8 then
          command p st fset ++ delay p.timing.tInit8.t0 ++
          command p st fset ++ delay p.timing.tInit8.t1 ++
          command p st fset ++ delay p.timing.tInit8.t2
        else
          clockOut p st 4 0x3 ++ delay p.timing.tInit4.t0 ++
          clockOut p st 4 0x3 ++ delay p.timing.tInit4.t1 ++
          clockOut p st 4 0x3 ++ delay p.timing.tInit4.t2 ++
          clockOut p st 4 0x2) ++
        command p st fset ++ command p st 0x0C ++ command p st 0x01 ++ delay p.timing.tClear ++ command p st 0x06 ∧
      ∀ lv : Levels, lv p.rs = false → lv p.e = false →
        busEvents p lv rest =
          (if p.bus8 then
            byteEvents p st false fset ++ waitEvents p.timing.tInit8.t0.toNat ++
            byteEvents p st false fset ++ waitEvents p.timing.tInit8.t1.toNat ++
            byteEvents p st false fset ++ waitEvents p.timing.tInit8.t2.toNat
          else
            nibbleEvents st false 0x3 ++ waitEvents p.timing.tInit4.t0.toNat ++
            nibbleEvents st false 0x3 ++ waitEvents p.timing.tInit4.t1.toNat ++
            nibbleEvents st false 0x3 ++ waitEvents p.timing.tInit4.t2.toNat ++
            nibbleEvents st false 0x2) ++
          byteEvents p st false fset ++ byteEvents p st false 0x0C ++
          byteEvents p st false 0x01 ++ waitEvents p.timing.tClear.toNat ++
          byteEvents p st false 0x06) ∧
  Timing.default.tPowerup = 50000 ∧ Timing.default.tInit4 = ⟨4500, 4500, 150⟩ ∧ Timing.default.tInit8 = ⟨4500, 150, 0⟩

/-- R126, which the spec derives: the length of the `BEGIN` sequence with the default timing. -/
def Obligations.BeginOperationCount : Prop :=
  ∀ (s t : State) (cols rows : Byte) (font5x10 : Bool),
    s.params.timing = Timing.default → s.regs.settle ≠ 0 → exec (.lcdBegin cols rows font5x10) s = .next t →
    t.seq.length =
      match s.params.bus8, decide (s.params.rw = pinNone) with
      | false, true => 113
      | false, false => 119
      | true, true => 107
      | true, false => 116

/-! ### Clear, home, cursor placement -/

/-- R131, R132: `CLEAR` and `HOME` set CUR_ROW to 0, send their byte, wait, and answer (0, 0); nothing else changes. -/
def Obligations.ClearAndHomeSendTheirByteAndWait : Prop :=
  ∀ s : State, s.params.wf = true →
    (encode .clear = ⟨0x10000000, 0⟩ ∧
      ∃ t, exec .clear s = .next t ∧ Started s t { s.regs with curRow := 0 } ⟨0, false⟩ ∧
        Sends s t (command s.params s.regs.settle 0x01 ++ delay s.params.timing.tClear)
          (byteEvents s.params s.regs.settle false 0x01 ++ waitEvents s.params.timing.tClear.toNat)) ∧
    (encode .home = ⟨0x18000000, 0⟩ ∧
      ∃ t, exec .home s = .next t ∧ Started s t { s.regs with curRow := 0 } ⟨0, false⟩ ∧
        Sends s t (command s.params s.regs.settle 0x02 ++ delay s.params.timing.tHome)
          (byteEvents s.params s.regs.settle false 0x02 ++ waitEvents s.params.timing.tHome.toNat)) ∧
    Timing.default.tClear = 2000 ∧ Timing.default.tHome = 2000

/-- R134, R135: `SETCURSOR` clamps the row to the last usable one, stores it in CUR_ROW, and sends SETDDRAMADDR with the row's
offset plus the column modulo 256; nothing else changes. -/
def Obligations.SetCursorAddressesTheClampedRow : Prop :=
  ∀ (s : State) (col row : Byte), s.params.wf = true →
    let r := min row.toNat (min (max s.regs.numLines.toNat 1) 4 - 1)
    let o := s.regs.rowOff
    let addr : Byte := BitVec.ofNat 8 (([o.o0, o.o1, o.o2, o.o3].getD r 0).toNat + col.toNat)
    (encode (.setCursor col row)).word = 0x20000000 ||| (row.setWidth 32 <<< 8) ||| col.setWidth 32 ∧
    r ≤ 3 ∧
    ∃ t, exec (.setCursor col row) s = .next t ∧
      Started s t { s.regs with curRow := BitVec.ofNat 2 r } ⟨0, false⟩ ∧
      Sends s t (command s.params s.regs.settle (0x80 ||| addr))
        (byteEvents s.params s.regs.settle false (0x80 ||| addr))

/-- R135: a row at or beyond the configured rows places the cursor exactly as the last configured row does; with more than
four rows configured, as row 3; with none, as row 0. -/
def Obligations.RowsBeyondTheGeometryAreTheLastRow : Prop :=
  ∀ (s : State) (col row : Byte),
    (1 ≤ s.regs.numLines.toNat → s.regs.numLines.toNat ≤ 4 → s.regs.numLines.toNat ≤ row.toNat →
      exec (.setCursor col row) s = exec (.setCursor col (s.regs.numLines - 1)) s) ∧
    (4 < s.regs.numLines.toNat → 3 ≤ row.toNat → exec (.setCursor col row) s = exec (.setCursor col 3) s) ∧
    (s.regs.numLines = 0 → exec (.setCursor col row) s = exec (.setCursor col 0) s)

/-! ### Toggles -/

/-- R136-R141: each display-control toggle writes its one field of DCTRL, keeps the other two, and sends `0x08 | DCTRL`,
whatever DCTRL was; nothing else changes. -/
def Obligations.DisplayTogglesWriteOneFieldAndResend : Prop :=
  ∀ s : State, s.params.wf = true →
    let d := s.regs.dctrl.getLsbD 2
    let c := s.regs.dctrl.getLsbD 1
    let b := s.regs.dctrl.getLsbD 0
    let resends := fun (i : Instr) (w : BitVec 32) (v : Byte) =>
      encode i = ⟨w, 0⟩ ∧ ∃ t, exec i s = .next t ∧ Started s t { s.regs with dctrl := v } ⟨0, false⟩ ∧
        Sends s t (command s.params s.regs.settle (0x08 ||| v))
          (byteEvents s.params s.regs.settle false (0x08 ||| v))
    resends .displayOn 0x28000000 (dctrlOf true c b) ∧ resends .displayOff 0x30000000 (dctrlOf false c b) ∧
    resends .cursorOn 0x38000000 (dctrlOf d true b) ∧ resends .cursorOff 0x40000000 (dctrlOf d false b) ∧
    resends .blinkOn 0x48000000 (dctrlOf d c true) ∧ resends .blinkOff 0x50000000 (dctrlOf d c false)

/-- R150-R153: each entry-mode toggle writes its one field of EMODE, keeps the other, and sends `0x04 | EMODE`, whatever EMODE
was; nothing else changes. -/
def Obligations.EntryTogglesWriteOneFieldAndResend : Prop :=
  ∀ s : State, s.params.wf = true →
    let d := s.regs.emode.getLsbD 1
    let sh := s.regs.emode.getLsbD 0
    let resends := fun (i : Instr) (w : BitVec 32) (v : Byte) =>
      encode i = ⟨w, 0⟩ ∧ ∃ t, exec i s = .next t ∧ Started s t { s.regs with emode := v } ⟨0, false⟩ ∧
        Sends s t (command s.params s.regs.settle (0x04 ||| v))
          (byteEvents s.params s.regs.settle false (0x04 ||| v))
    resends .leftToRight 0x68000000 (emodeOf true sh) ∧ resends .rightToLeft 0x70000000 (emodeOf false sh) ∧
    resends .autoscrollOn 0x78000000 (emodeOf d true) ∧ resends .autoscrollOff 0x80000000 (emodeOf d false)

/-- R130: any list of toggles, served one after the other, writes one field each, sends one command each with the whole register
as it then is, skips none, and leaves the registers with all the flags it sent last. -/
def Obligations.ToggleRunsSendEveryRegisterInFull : Prop :=
  ∀ (s : State) (ts : List Toggle), s.params.wf = true → RegsInv s.params s.regs →
    let f := flagsAfter (flagsOf s.regs) ts
    ∃ u, serveAll (ts.map fun t => encode t.instr) s = .next u ∧
      u.regs = { s.regs with dctrl := dctrlOf f.d f.c f.b, emode := emodeOf f.id f.s } ∧
      ∃ ops, u.trace = s.trace ++ ops ∧
        ∀ lv : Levels, lv s.params.e = false →
          busEvents s.params lv ops = toggleEvents s.params s.regs.settle (flagsOf s.regs) ts

/-- R147, which the spec derives: two toggles of different fields leave the same registers in either order. -/
def Obligations.TogglesOfDifferentFieldsCommute : Prop :=
  ∀ (s t1 t2 u1 u2 : State) (x y : Toggle), x.field ≠ y.field →
    exec x.instr s = .next t1 → exec y.instr t1 = .next t2 →
    exec y.instr s = .next u1 → exec x.instr u1 = .next u2 → t2.regs = u2.regs

/-! ### Scroll, glyphs, characters -/

/-- R142, R143: the scrolls send their constant byte and write no register. -/
def Obligations.ScrollSendsAConstantByte : Prop :=
  ∀ s : State, s.params.wf = true →
    (encode .scrollLeft = ⟨0x58000000, 0⟩ ∧
      ∃ t, exec .scrollLeft s = .next t ∧ Started s t s.regs ⟨0, false⟩ ∧
        Sends s t (command s.params s.regs.settle 0x18) (byteEvents s.params s.regs.settle false 0x18)) ∧
    (encode .scrollRight = ⟨0x60000000, 0⟩ ∧
      ∃ t, exec .scrollRight s = .next t ∧ Started s t s.regs ⟨0, false⟩ ∧
        Sends s t (command s.params s.regs.settle 0x1C) (byteEvents s.params s.regs.settle false 0x1C))

/-- R144: `CREATE_CHAR` sends SETCGRAMADDR for eight times the index masked to 3 bits, then the eight rows as data, unmasked,
row 0 first; it writes no register. -/
def Obligations.CreateCharSendsTheGlyph : Prop :=
  ∀ (s : State) (index : Byte) (g : Glyph), s.params.wf = true →
    (encode (.createChar index g)).word = 0x88000000 ||| index.setWidth 32 ∧
    (encode (.createChar index g)).payload = g.p7 ++ g.p6 ++ g.p5 ++ g.p4 ++ g.p3 ++ g.p2 ++ g.p1 ++ g.p0 ∧
    ∃ t, exec (.createChar index g) s = .next t ∧ Started s t s.regs ⟨0, false⟩ ∧
      Sends s t
        (command s.params s.regs.settle (BitVec.ofNat 8 (0x40 + 8 * (index.toNat % 8))) ++
          [g.p0, g.p1, g.p2, g.p3, g.p4, g.p5, g.p6, g.p7].flatMap (data s.params s.regs.settle))
        (byteEvents s.params s.regs.settle false (BitVec.ofNat 8 (0x40 + 8 * (index.toNat % 8))) ++
          [g.p0, g.p1, g.p2, g.p3, g.p4, g.p5, g.p6, g.p7].flatMap (byteEvents s.params s.regs.settle true))

/-- R145: `WRITE` sends the byte unchanged as data and answers count 1; it writes no register. -/
def Obligations.WriteSendsTheByteAndCountsOne : Prop :=
  ∀ (s : State) (v : Byte), s.params.wf = true →
    (encode (.write v)).word = 0x90000000 ||| v.setWidth 32 ∧
    ∃ t, exec (.write v) s = .next t ∧ Started s t s.regs ⟨1, false⟩ ∧
      Sends s t (data s.params s.regs.settle v) (byteEvents s.params s.regs.settle true v)

/-- R90: `PRINT` of a string is one `WRITE` per byte: it completes, every response counts 1, the registers stay, and the bus
shows the bytes as data in order. -/
def Obligations.PrintWritesEveryByte : Prop :=
  ∀ (s : State) (bytes : List Byte), s.params.wf = true →
    ∃ u, serveAll ((Pseudo.print bytes).expand.map encode) s = .next u ∧ u.regs = s.regs ∧
      u.responses = s.responses ++ List.replicate bytes.length ⟨1, false⟩ ∧
      ∃ ops, u.trace = s.trace ++ ops ∧
        ∀ lv : Levels, lv s.params.e = false →
          busEvents s.params lv ops = bytes.flatMap (byteEvents s.params s.regs.settle true)

/-! ### Configuration and backlight -/

/-- R166, R167: `SET_ROW_OFFSETS` stores all four entries, `SET_SETTLE_TIME` stores its value clamped to at least 1; neither
emits anything or changes anything else. -/
def Obligations.ConfigurationRequestsStoreAndEmitNothing : Prop :=
  ∀ (s : State) (o : RowOffsets) (us : BitVec 16), s.params.wf = true →
    (encode (.setRowOffsets o)).word = 0x98000000 ∧
    (encode (.setRowOffsets o)).payload = 0#32 ++ (o.o3 ++ o.o2 ++ o.o1 ++ o.o0) ∧
    exec (.setRowOffsets o) s =
      .next { s with regs := { s.regs with rowOff := o }, seq := [], resp := ⟨0, false⟩, ustep := 0, phase := .busy } ∧
    (encode (.setSettleTime us)).word = 0xA0000000 ||| us.setWidth 32 ∧
    exec (.setSettleTime us) s =
      .next { s with
        regs := { s.regs with settle := if us = 0 then 1 else us }
        seq := [], resp := ⟨0, false⟩, ustep := 0, phase := .busy }

/-- R85, R170: `CONFIG_BACKLIGHT` with mode 3 is a flagged no-op; otherwise a bus pin is refused, and any other pin is stored with
the mode and, when present, configured as an output. -/
def Obligations.ConfigBacklightStoresPinAndMode : Prop :=
  ∀ (s : State) (pin : PinId) (mode : BitVec 2), s.params.wf = true →
    (encode (.configBacklight pin mode)).word = 0xA8000000 ||| (mode.setWidth 32 <<< 8) ||| pin.setWidth 32 ∧
    (mode = 3 →
      exec (.configBacklight pin mode) s =
        .next { s with seq := [], resp := ⟨0, true⟩, ustep := 0, phase := .busy }) ∧
    (mode ≠ 3 → pin ∈ s.params.busPins → exec (.configBacklight pin mode) s = .refused .backlightPinOnBus) ∧
    (mode ≠ 3 → pin ∉ s.params.busPins →
      exec (.configBacklight pin mode) s =
        .next { s with
          regs := { s.regs with blPin := pin, blMode := mode }
          seq := if pin = 0xFF then [] else [.config pin .output]
          resp := ⟨0, false⟩, ustep := 0, phase := .busy })

/-- R169, R171: `SET_BACKLIGHT` stores the level, and drives the pin by the mode when the pin is present: high for a nonzero
level, low for a nonzero level, or the level as a duty value. -/
def Obligations.SetBacklightDrivesThePinByMode : Prop :=
  ∀ (s : State) (level : Byte), s.params.wf = true →
    (encode (.setBacklight level)).word = 0xB0000000 ||| level.setWidth 32 ∧
    ∃ t, exec (.setBacklight level) s = .next t ∧ Started s t { s.regs with blLevel := level } ⟨0, false⟩ ∧
      (s.regs.blPin = 0xFF → t.seq = []) ∧
      (s.regs.blPin ≠ 0xFF → s.regs.blMode = 0 → t.seq = [.write s.regs.blPin (decide (level.toNat > 0))]) ∧
      (s.regs.blPin ≠ 0xFF → s.regs.blMode = 1 → t.seq = [.write s.regs.blPin (decide (level.toNat = 0))]) ∧
      (s.regs.blPin ≠ 0xFF → s.regs.blMode = 2 → t.seq = [.duty s.regs.blPin level])

/-- R165, R172: no request of the encoder or of BEGIN touches the backlight registers or names a pin off the bus, and no
configuration or backlight request names a bus pin or writes FUNC, DCTRL, EMODE, NUMLINES or CUR_ROW. -/
def Obligations.BacklightAndDisplayAreIndependent : Prop :=
  ∀ (i : Instr) (s t : State), RegsInv s.params s.regs → exec i s = .next t →
    match i with
    | .setRowOffsets _ | .setSettleTime _ | .configBacklight _ _ | .setBacklight _ =>
      (∀ op ∈ t.seq, ∀ pin, opPin op = some pin → pin ∉ s.params.busPins) ∧
      t.regs.func = s.regs.func ∧ t.regs.dctrl = s.regs.dctrl ∧ t.regs.emode = s.regs.emode ∧
      t.regs.numLines = s.regs.numLines ∧ t.regs.curRow = s.regs.curRow
    | _ =>
      (∀ op ∈ t.seq, ∀ pin, opPin op = some pin → pin ∈ s.params.busPins) ∧
      t.regs.blPin = s.regs.blPin ∧ t.regs.blMode = s.regs.blMode ∧ t.regs.blLevel = s.regs.blLevel ∧
      t.regs.settle = s.regs.settle

/-! ### Responses, operations, commands -/

/-- R79, R181: the response of every accepted request: (0, 1) exactly for a reserved opcode or backlight mode 3, (1, 0) for
`WRITE`, (0, 0) for every other; and the two reserved cases write no register and emit nothing. -/
def Obligations.ResponsesTellWriteAndReserved : Prop :=
  ∀ (req : Request) (s t : State), acceptRequest req s = .next t →
    let reserved := req.op = 0x00 ∨ 0x17 ≤ req.op.toNat ∨ (req.op = 0x15 ∧ req.word.extractLsb' 8 2 = 3)
    (reserved → t.resp = ⟨0, true⟩ ∧ t.regs = s.regs ∧ t.seq = []) ∧
    (¬reserved → req.op = 0x12 → t.resp = ⟨1, false⟩) ∧
    (¬reserved → req.op ≠ 0x12 → t.resp = ⟨0, false⟩)

/-- R77: how an operation stands on the channel's lines, and that no request emits CONFIG to input, DELAY of 0, or (R87) a
write of RW to high. -/
def Obligations.PinOperationsHaveTheFormOfTheTable : Prop :=
  (∀ (pin : PinId) (n : Micros) (x : Byte),
    (PinOp.config pin .output).lines = ⟨0, pin, 1⟩ ∧ (PinOp.config pin .input).lines = ⟨0, pin, 0⟩ ∧
    (PinOp.write pin true).lines = ⟨1, pin, 1⟩ ∧ (PinOp.write pin false).lines = ⟨1, pin, 0⟩ ∧
    (PinOp.delay n).lines = ⟨2, 0, n⟩ ∧ (PinOp.duty pin x).lines = ⟨3, pin, BitVec.ofNat 32 x.toNat⟩) ∧
  (∀ (i : Instr) (s t : State), RegsInv s.params s.regs → exec i s = .next t → ∀ op ∈ t.seq, LegalOp s.params op)

/-- R87, which the spec derives from R80: every command byte a request sends has one of the forms of the command table; no cursor
move, no bit outside the registers' fields. The recovery nibbles of a 4-bit `BEGIN` are no bytes (R103), so that form is left
to the statement of its sequence. -/
def Obligations.OnlyTheCommandFormsAreSent : Prop :=
  ∀ (i : Instr) (s t : State) (lv : Levels), RegsInv s.params s.regs → lv s.params.e = false →
    exec i s = .next t → (∀ cols rows font, i = .lcdBegin cols rows font → s.params.bus8 = true) →
    ∀ v ∈ commandBytes s.params (busEvents s.params lv t.seq), isCommandForm v = true

/-- R210, which the spec derives: from E low, the RS, RW and data pins are written only while E is low, in the sequence of
every request. -/
def Obligations.BusLinesChangeOnlyWhileELow : Prop :=
  ∀ (i : Instr) (s t : State), RegsInv s.params s.regs → exec i s = .next t →
    changesOnlyWhileELow s.params false t.seq = true

/-- R206, R207, R210: under the premises of the controller's timing, PORT_SETUP_OK among them (their figures are log entries 19 to
21), every accepted request sets up the lines before each rise of E, lets at least the execution time pass after each sample, and
ends `CLEAR` and `HOME` with their longer wait. Without PORT_SETUP_OK no transmit is set up: the block puts no DELAY between the
last data write and the rise of E. -/
def Obligations.ControllerTimingRestsOnItsPremises : Prop :=
  (∀ (i : Instr) (s t : State), timingMeetsController s.params s.regs.settle = true → RegsInv s.params s.regs →
    exec i s = .next t →
    setupTimesMet s.params false t.seq = true ∧
    (∀ lv : Levels, lv s.params.e = false →
      samplesFollowedByWait executionMinimum (busEvents s.params lv t.seq) = true) ∧
    (i = .clear ∨ i = .home → ∃ n, t.seq.getLast? = some (.delay n) ∧ slowExecutionMinimum ≤ n.toNat)) ∧
  (∀ (p : Params) (settle : BitVec 16) (v : Byte) (rs settled : Bool), p.wf = true → p.portSetupOk = false →
    setupTimesMet p settled (transmit p settle v rs) = false)

/-- R214, which the spec derives: the minimum time of every request, with the default timing and SETTLE = 100. -/
def Obligations.MinimumTimesOfRequests : Prop :=
  ∀ (i : Instr) (s t : State), s.params.timing = Timing.default → s.regs.settle = 100 → exec i s = .next t →
    minMicros t.seq =
      match i with
      | .lcdBegin _ _ _ => if s.params.bus8 then 57357 else 62362
      | .clear | .home => if s.params.bus8 then 2101 else 2202
      | .createChar _ _ => if s.params.bus8 then 909 else 1818
      | .setRowOffsets _ | .setSettleTime _ | .configBacklight _ _ | .setBacklight _ => 0
      | _ => if s.params.bus8 then 101 else 202

/-- R32: no pin operation, no response and no register but CUR_ROW depends on CUR_ROW. -/
def Obligations.CursorRowIsNotObservable : Prop :=
  ∀ (i : Instr) (s t : State) (c : BitVec 2), exec i s = .next t →
    ∃ u, exec i { s with regs := { s.regs with curRow := c } } = .next u ∧
      u.seq = t.seq ∧ u.resp = t.resp ∧
      { u.regs with curRow := 0 } = { t.regs with curRow := 0 }

/-! ### The sequencer -/

/-- R22, R76, R83: a step of a block in IDLE with a request on the channel runs the decoded instruction, on the state with that
edge passed and the request latched in CUR; a reserved opcode completes abnormally. -/
def Obligations.StepRunsThePresentedRequest : Prop :=
  ∀ (s : State), s.params.wf = true → s.contested = false → s.phase = .idle → s.edge.rst = false →
    s.edge.reqValid = true →
    let req : Request := ⟨s.edge.reqWord, s.edge.reqPayload⟩
    let s' : State := { s with inputs := s.inputs.tail, cur := req }
    (∀ i, decode req = .ok i → step s = exec i s') ∧
    (∀ e, decode req = .error e → step s = s'.acceptReserved)

/-- R22, R78, R79: the handshakes of BUSY. Below len(SEQ), `po_ready` performs SEQ[USTEP]: it joins the trace and USTEP goes up by
one. At len(SEQ), `resp_ready` takes RESP and the block goes to IDLE. Nothing else changes but the inputs. -/
def Obligations.BusyHandshakesAdvanceByOne : Prop :=
  ∀ (s : State) (op : PinOp), s.params.wf = true → s.contested = false → s.phase = .busy → s.edge.rst = false →
    (s.seq[s.ustep]? = some op → s.edge.poReady = true →
      s.outputs.pinOp = some op.lines ∧
      step s = .next { s with inputs := s.inputs.tail, trace := s.trace ++ [op], ustep := s.ustep + 1 }) ∧
    (s.ustep = s.seq.length → s.edge.respReady = true →
      s.outputs.response = some s.resp ∧
      step s = .next { s with
        inputs := s.inputs.tail, responses := s.responses ++ [s.resp], phase := .idle })

/-- R196, which the spec derives: while the port does not complete the presented operation, or the host does not take the
response, any number of edges leaves the block as it is. -/
def Obligations.AStuckBlockHolds : Prop :=
  ∀ (s : State) (edges rest : List Inputs), s.params.wf = true → s.phase = .busy → s.inputs = edges ++ rest →
    (∀ e ∈ edges, e.rst = false ∧ e.otherDrives = [] ∧
      if s.ustep < s.seq.length then e.poReady = false else e.respReady = false) →
    Sys2Proof.core.run edges.length s = .next { s with inputs := rest }

/-- R200, R201, R186: at an edge with `rst = 1`, in any phase and whatever else is driven, every register and the sequencer take
the reset values, nothing joins the trace, no response is given, and no channel is valid. -/
def Obligations.ResetWinsAndRestoresTheRegisters : Prop :=
  ∀ s : State, s.params.wf = true → s.contested = false → s.edge.rst = true →
    s.outputs = ⟨false, none, none⟩ ∧
    ∃ t, step s = .next t ∧ t.params = s.params ∧ t.phase = .idle ∧ t.ustep = 0 ∧
      t.regs = ⟨if s.params.bus8 then 0x10 else 0x00, 0x00, 0x00, ⟨0x00, 0x40, 0x10, 0x50⟩, 1,
        s.params.timing.settleDefault, 0xFF, 0, 0, 0⟩ ∧
      t.trace = s.trace ∧ t.responses = s.responses ∧ t.inputs = s.inputs.tail

/-- R76, R78, R79: when each channel is ready or valid, and with what. -/
def Obligations.OutputsFollowTheSequencer : Prop :=
  ∀ s : State, s.edge.rst = false →
    (s.outputs.reqReady = true ↔ s.phase = .idle) ∧
    (s.phase = .idle → s.outputs.pinOp = none ∧ s.outputs.response = none) ∧
    (s.phase = .busy → ∀ h : s.ustep < s.seq.length,
      s.outputs.pinOp = some s.seq[s.ustep].lines ∧ s.outputs.response = none) ∧
    (s.phase = .busy → s.ustep = s.seq.length → s.outputs.pinOp = none ∧ s.outputs.response = some s.resp)

/-- R22, R62, D23: whatever the timing of the handshakes, an edge without reset either takes up a request, and then the view in
which the request in flight is finished moves by exactly that request's big-step meaning, or leaves that view as it is. -/
def Obligations.EveryEdgeRefinesTheBigStep : Prop :=
  ∀ s t : State, step s = .next t → s.edge.rst = false →
    (s.phase = .idle → s.edge.reqValid = true →
      serve ⟨s.edge.reqWord, s.edge.reqPayload⟩ (completedView s) = .next (completedView t)) ∧
    (s.phase = .busy ∨ s.edge.reqValid = false → completedView t = completedView s)

/-- R62, R187: a request that is accepted completes: with the port and the host ready at every edge it takes one edge to accept,
one per pin operation and one for the response, and ends as its big-step meaning says. -/
def Obligations.AcceptedRequestsComplete : Prop :=
  ∀ (s t : State) (req : Request) (rest : List Inputs), s.phase = .idle → acceptRequest req s = .next t →
    s.inputs = Inputs.request req :: List.replicate (t.seq.length + 1) Inputs.ready ++ rest →
    Sys2Proof.core.run (t.seq.length + 2) s = serve req { s with inputs := rest }

/-- R8, R22, R62: a step never changes the parameters; it adds nothing to the trace but SEQ[USTEP], and nothing to the responses
but RESP, and never both. -/
def Obligations.StepsOnlyExtendWhatWasObserved : Prop :=
  ∀ s t : State, step s = .next t →
    t.params = s.params ∧
    ((t.trace = s.trace ∧ t.responses = s.responses) ∨
     (∃ op, s.seq[s.ustep]? = some op ∧ s.phase = .busy ∧ t.trace = s.trace ++ [op] ∧ t.responses = s.responses) ∨
     (s.phase = .busy ∧ s.seq.length ≤ s.ustep ∧ t.trace = s.trace ∧ t.responses = s.responses ++ [s.resp] ∧
       t.phase = .idle))

/-! ### Refusals -/

/-- R10, R182: the well-formed constructions are those of R10, with a legal settle default (R11; that a construction without one
is refused is log entry 10), and a block built otherwise is refused at every step and for every request. -/
def Obligations.IllFormedConstructionsAreRefused : Prop :=
  (∀ p : Params, p.wf = true ↔
    let used := p.data.toList.take (if p.bus8 then 8 else 4)
    p.rs ≠ 0xFF ∧ p.e ≠ 0xFF ∧ (∀ pin ∈ used, pin ≠ 0xFF) ∧
    p.rs ≠ p.e ∧ p.rs ∉ used ∧ p.e ∉ used ∧ used.Nodup ∧
    (p.rw ≠ 0xFF → p.rw ≠ p.rs ∧ p.rw ≠ p.e ∧ p.rw ∉ used) ∧
    1 ≤ p.timing.settleDefault.toNat) ∧
  (∀ s : State, s.params.wf = false →
    step s = .refused .illFormedConfiguration ∧ ∀ i, exec i s = .refused .illFormedConfiguration)

/-- R64, R192: an edge at which another agent drives a bus pin or BL_PIN is refused. -/
def Obligations.ContestedPinsAreRefused : Prop :=
  ∀ (s : State) (pin : PinId), s.params.wf = true → pin ∈ s.edge.otherDrives →
    pin ∈ s.params.busPins ∨ (pin = s.regs.blPin ∧ pin ≠ 0xFF) → step s = .refused .contestedPin

/-- R180, R189: in any state of a well-formed block, with no contested pin and unless a backlight pin on the bus is asked for, a
step answers a state; and the reasons of a refusal are those three. -/
def Obligations.EveryRequestIsServedInEveryState : Prop :=
  (∀ s : State, s.params.wf = true → s.contested = false →
    (∀ pin mode, decode ⟨s.edge.reqWord, s.edge.reqPayload⟩ = .ok (.configBacklight pin mode) →
      mode = 3 ∨ pin ∉ s.params.busPins) →
    ∃ t, step s = .next t) ∧
  (∀ (s : State) (r : Refusal), step s = .refused r →
    r = .illFormedConfiguration ∨ r = .contestedPin ∨ r = .backlightPinOnBus)

/-! ### Invariants -/

/-- The invariant holds right after reset of every well-formed instance, and of the model's reset state (its construction is
log entry 2). -/
def Obligations.InvariantHoldsAfterReset : Prop :=
  Inv State.reset ∧ ∀ p : Params, p.wf = true → Inv (State.resetOf p)

/-- R24-R27, R30, R31, R77: the invariant is kept by every step, from every state that has it. -/
def Obligations.EveryStepKeepsTheInvariant : Prop :=
  ∀ s t : State, Inv s → step s = .next t → Inv t

/-- R37, which the spec derives: after a completed `BEGIN` and any further requests, FUNC, DCTRL and EMODE are the flag parts of
the last FUNCTIONSET, DISPLAYCONTROL and ENTRYMODESET bytes that the pin trace clocked out since. -/
def Obligations.ShadowRegistersAreWhatWasLastSent : Prop :=
  ∀ (s u : State) (cols rows : Byte) (font5x10 : Bool) (reqs : List Request), RegsInv s.params s.regs →
    serveAll (encode (.lcdBegin cols rows font5x10) :: reqs) s = .next u →
    ∃ ops, u.trace = s.trace ++ ops ∧
      ∀ lv : Levels, lv s.params.e = false →
        let sent := commandBytes s.params (busEvents s.params lv ops)
        (sent.filter isFunctionSet).getLast? = some (0x20 ||| u.regs.func) ∧
        (sent.filter isDisplayControl).getLast? = some (0x08 ||| u.regs.dctrl) ∧
        (sent.filter isEntryModeSet).getLast? = some (0x04 ||| u.regs.emode)
end

