-- ==== Sys2Proof/Laws/State.lean ====
section
/-! SUPPORT. One lemma per field per update of the registers and of the state, so that no later proof unfolds a record
update. -/

namespace Sys2Proof.Machine

/-! ### The register writes -/

@[simp] theorem Regs.writeFunc_func (r : Regs) (bus8 : Bool) (v : Byte) : (r.writeFunc bus8 v).func = flagWhen flagDL bus8 ||| (v &&& (flagN ||| flagF)) := rfl
@[simp] theorem Regs.writeFunc_dctrl (r : Regs) (bus8 : Bool) (v : Byte) : (r.writeFunc bus8 v).dctrl = r.dctrl := rfl
@[simp] theorem Regs.writeFunc_emode (r : Regs) (bus8 : Bool) (v : Byte) : (r.writeFunc bus8 v).emode = r.emode := rfl
@[simp] theorem Regs.writeFunc_rowOff (r : Regs) (bus8 : Bool) (v : Byte) : (r.writeFunc bus8 v).rowOff = r.rowOff := rfl
@[simp] theorem Regs.writeFunc_numLines (r : Regs) (bus8 : Bool) (v : Byte) : (r.writeFunc bus8 v).numLines = r.numLines := rfl
@[simp] theorem Regs.writeFunc_settle (r : Regs) (bus8 : Bool) (v : Byte) : (r.writeFunc bus8 v).settle = r.settle := rfl
@[simp] theorem Regs.writeFunc_blPin (r : Regs) (bus8 : Bool) (v : Byte) : (r.writeFunc bus8 v).blPin = r.blPin := rfl
@[simp] theorem Regs.writeFunc_blMode (r : Regs) (bus8 : Bool) (v : Byte) : (r.writeFunc bus8 v).blMode = r.blMode := rfl
@[simp] theorem Regs.writeFunc_blLevel (r : Regs) (bus8 : Bool) (v : Byte) : (r.writeFunc bus8 v).blLevel = r.blLevel := rfl
@[simp] theorem Regs.writeFunc_curRow (r : Regs) (bus8 : Bool) (v : Byte) : (r.writeFunc bus8 v).curRow = r.curRow := rfl

@[simp] theorem Regs.writeDctrl_func (r : Regs) (v : Byte) : (r.writeDctrl v).func = r.func := rfl
@[simp] theorem Regs.writeDctrl_dctrl (r : Regs) (v : Byte) : (r.writeDctrl v).dctrl = v &&& (flagD ||| flagC ||| flagB) := rfl
@[simp] theorem Regs.writeDctrl_emode (r : Regs) (v : Byte) : (r.writeDctrl v).emode = r.emode := rfl
@[simp] theorem Regs.writeDctrl_rowOff (r : Regs) (v : Byte) : (r.writeDctrl v).rowOff = r.rowOff := rfl
@[simp] theorem Regs.writeDctrl_numLines (r : Regs) (v : Byte) : (r.writeDctrl v).numLines = r.numLines := rfl
@[simp] theorem Regs.writeDctrl_settle (r : Regs) (v : Byte) : (r.writeDctrl v).settle = r.settle := rfl
@[simp] theorem Regs.writeDctrl_blPin (r : Regs) (v : Byte) : (r.writeDctrl v).blPin = r.blPin := rfl
@[simp] theorem Regs.writeDctrl_blMode (r : Regs) (v : Byte) : (r.writeDctrl v).blMode = r.blMode := rfl
@[simp] theorem Regs.writeDctrl_blLevel (r : Regs) (v : Byte) : (r.writeDctrl v).blLevel = r.blLevel := rfl
@[simp] theorem Regs.writeDctrl_curRow (r : Regs) (v : Byte) : (r.writeDctrl v).curRow = r.curRow := rfl

@[simp] theorem Regs.writeEmode_func (r : Regs) (v : Byte) : (r.writeEmode v).func = r.func := rfl
@[simp] theorem Regs.writeEmode_dctrl (r : Regs) (v : Byte) : (r.writeEmode v).dctrl = r.dctrl := rfl
@[simp] theorem Regs.writeEmode_emode (r : Regs) (v : Byte) : (r.writeEmode v).emode = v &&& (flagID ||| flagS) := rfl
@[simp] theorem Regs.writeEmode_rowOff (r : Regs) (v : Byte) : (r.writeEmode v).rowOff = r.rowOff := rfl
@[simp] theorem Regs.writeEmode_numLines (r : Regs) (v : Byte) : (r.writeEmode v).numLines = r.numLines := rfl
@[simp] theorem Regs.writeEmode_settle (r : Regs) (v : Byte) : (r.writeEmode v).settle = r.settle := rfl
@[simp] theorem Regs.writeEmode_blPin (r : Regs) (v : Byte) : (r.writeEmode v).blPin = r.blPin := rfl
@[simp] theorem Regs.writeEmode_blMode (r : Regs) (v : Byte) : (r.writeEmode v).blMode = r.blMode := rfl
@[simp] theorem Regs.writeEmode_blLevel (r : Regs) (v : Byte) : (r.writeEmode v).blLevel = r.blLevel := rfl
@[simp] theorem Regs.writeEmode_curRow (r : Regs) (v : Byte) : (r.writeEmode v).curRow = r.curRow := rfl

@[simp] theorem Regs.writeRowOff_func (r : Regs) (v : RowOffsets) : (r.writeRowOff v).func = r.func := rfl
@[simp] theorem Regs.writeRowOff_dctrl (r : Regs) (v : RowOffsets) : (r.writeRowOff v).dctrl = r.dctrl := rfl
@[simp] theorem Regs.writeRowOff_emode (r : Regs) (v : RowOffsets) : (r.writeRowOff v).emode = r.emode := rfl
@[simp] theorem Regs.writeRowOff_rowOff (r : Regs) (v : RowOffsets) : (r.writeRowOff v).rowOff = v := rfl
@[simp] theorem Regs.writeRowOff_numLines (r : Regs) (v : RowOffsets) : (r.writeRowOff v).numLines = r.numLines := rfl
@[simp] theorem Regs.writeRowOff_settle (r : Regs) (v : RowOffsets) : (r.writeRowOff v).settle = r.settle := rfl
@[simp] theorem Regs.writeRowOff_blPin (r : Regs) (v : RowOffsets) : (r.writeRowOff v).blPin = r.blPin := rfl
@[simp] theorem Regs.writeRowOff_blMode (r : Regs) (v : RowOffsets) : (r.writeRowOff v).blMode = r.blMode := rfl
@[simp] theorem Regs.writeRowOff_blLevel (r : Regs) (v : RowOffsets) : (r.writeRowOff v).blLevel = r.blLevel := rfl
@[simp] theorem Regs.writeRowOff_curRow (r : Regs) (v : RowOffsets) : (r.writeRowOff v).curRow = r.curRow := rfl

@[simp] theorem Regs.writeNumLines_func (r : Regs) (v : Byte) : (r.writeNumLines v).func = r.func := rfl
@[simp] theorem Regs.writeNumLines_dctrl (r : Regs) (v : Byte) : (r.writeNumLines v).dctrl = r.dctrl := rfl
@[simp] theorem Regs.writeNumLines_emode (r : Regs) (v : Byte) : (r.writeNumLines v).emode = r.emode := rfl
@[simp] theorem Regs.writeNumLines_rowOff (r : Regs) (v : Byte) : (r.writeNumLines v).rowOff = r.rowOff := rfl
@[simp] theorem Regs.writeNumLines_numLines (r : Regs) (v : Byte) : (r.writeNumLines v).numLines = v := rfl
@[simp] theorem Regs.writeNumLines_settle (r : Regs) (v : Byte) : (r.writeNumLines v).settle = r.settle := rfl
@[simp] theorem Regs.writeNumLines_blPin (r : Regs) (v : Byte) : (r.writeNumLines v).blPin = r.blPin := rfl
@[simp] theorem Regs.writeNumLines_blMode (r : Regs) (v : Byte) : (r.writeNumLines v).blMode = r.blMode := rfl
@[simp] theorem Regs.writeNumLines_blLevel (r : Regs) (v : Byte) : (r.writeNumLines v).blLevel = r.blLevel := rfl
@[simp] theorem Regs.writeNumLines_curRow (r : Regs) (v : Byte) : (r.writeNumLines v).curRow = r.curRow := rfl

@[simp] theorem Regs.writeSettle_func (r : Regs) (v : BitVec 16) : (r.writeSettle v).func = r.func := rfl
@[simp] theorem Regs.writeSettle_dctrl (r : Regs) (v : BitVec 16) : (r.writeSettle v).dctrl = r.dctrl := rfl
@[simp] theorem Regs.writeSettle_emode (r : Regs) (v : BitVec 16) : (r.writeSettle v).emode = r.emode := rfl
@[simp] theorem Regs.writeSettle_rowOff (r : Regs) (v : BitVec 16) : (r.writeSettle v).rowOff = r.rowOff := rfl
@[simp] theorem Regs.writeSettle_numLines (r : Regs) (v : BitVec 16) : (r.writeSettle v).numLines = r.numLines := rfl
@[simp] theorem Regs.writeSettle_settle (r : Regs) (v : BitVec 16) : (r.writeSettle v).settle = v := rfl
@[simp] theorem Regs.writeSettle_blPin (r : Regs) (v : BitVec 16) : (r.writeSettle v).blPin = r.blPin := rfl
@[simp] theorem Regs.writeSettle_blMode (r : Regs) (v : BitVec 16) : (r.writeSettle v).blMode = r.blMode := rfl
@[simp] theorem Regs.writeSettle_blLevel (r : Regs) (v : BitVec 16) : (r.writeSettle v).blLevel = r.blLevel := rfl
@[simp] theorem Regs.writeSettle_curRow (r : Regs) (v : BitVec 16) : (r.writeSettle v).curRow = r.curRow := rfl

@[simp] theorem Regs.writeBlPin_func (r : Regs) (v : PinId) : (r.writeBlPin v).func = r.func := rfl
@[simp] theorem Regs.writeBlPin_dctrl (r : Regs) (v : PinId) : (r.writeBlPin v).dctrl = r.dctrl := rfl
@[simp] theorem Regs.writeBlPin_emode (r : Regs) (v : PinId) : (r.writeBlPin v).emode = r.emode := rfl
@[simp] theorem Regs.writeBlPin_rowOff (r : Regs) (v : PinId) : (r.writeBlPin v).rowOff = r.rowOff := rfl
@[simp] theorem Regs.writeBlPin_numLines (r : Regs) (v : PinId) : (r.writeBlPin v).numLines = r.numLines := rfl
@[simp] theorem Regs.writeBlPin_settle (r : Regs) (v : PinId) : (r.writeBlPin v).settle = r.settle := rfl
@[simp] theorem Regs.writeBlPin_blPin (r : Regs) (v : PinId) : (r.writeBlPin v).blPin = v := rfl
@[simp] theorem Regs.writeBlPin_blMode (r : Regs) (v : PinId) : (r.writeBlPin v).blMode = r.blMode := rfl
@[simp] theorem Regs.writeBlPin_blLevel (r : Regs) (v : PinId) : (r.writeBlPin v).blLevel = r.blLevel := rfl
@[simp] theorem Regs.writeBlPin_curRow (r : Regs) (v : PinId) : (r.writeBlPin v).curRow = r.curRow := rfl

@[simp] theorem Regs.writeBlMode_func (r : Regs) (v : BitVec 2) : (r.writeBlMode v).func = r.func := rfl
@[simp] theorem Regs.writeBlMode_dctrl (r : Regs) (v : BitVec 2) : (r.writeBlMode v).dctrl = r.dctrl := rfl
@[simp] theorem Regs.writeBlMode_emode (r : Regs) (v : BitVec 2) : (r.writeBlMode v).emode = r.emode := rfl
@[simp] theorem Regs.writeBlMode_rowOff (r : Regs) (v : BitVec 2) : (r.writeBlMode v).rowOff = r.rowOff := rfl
@[simp] theorem Regs.writeBlMode_numLines (r : Regs) (v : BitVec 2) : (r.writeBlMode v).numLines = r.numLines := rfl
@[simp] theorem Regs.writeBlMode_settle (r : Regs) (v : BitVec 2) : (r.writeBlMode v).settle = r.settle := rfl
@[simp] theorem Regs.writeBlMode_blPin (r : Regs) (v : BitVec 2) : (r.writeBlMode v).blPin = r.blPin := rfl
@[simp] theorem Regs.writeBlMode_blMode (r : Regs) (v : BitVec 2) : (r.writeBlMode v).blMode = v := rfl
@[simp] theorem Regs.writeBlMode_blLevel (r : Regs) (v : BitVec 2) : (r.writeBlMode v).blLevel = r.blLevel := rfl
@[simp] theorem Regs.writeBlMode_curRow (r : Regs) (v : BitVec 2) : (r.writeBlMode v).curRow = r.curRow := rfl

@[simp] theorem Regs.writeBlLevel_func (r : Regs) (v : Byte) : (r.writeBlLevel v).func = r.func := rfl
@[simp] theorem Regs.writeBlLevel_dctrl (r : Regs) (v : Byte) : (r.writeBlLevel v).dctrl = r.dctrl := rfl
@[simp] theorem Regs.writeBlLevel_emode (r : Regs) (v : Byte) : (r.writeBlLevel v).emode = r.emode := rfl
@[simp] theorem Regs.writeBlLevel_rowOff (r : Regs) (v : Byte) : (r.writeBlLevel v).rowOff = r.rowOff := rfl
@[simp] theorem Regs.writeBlLevel_numLines (r : Regs) (v : Byte) : (r.writeBlLevel v).numLines = r.numLines := rfl
@[simp] theorem Regs.writeBlLevel_settle (r : Regs) (v : Byte) : (r.writeBlLevel v).settle = r.settle := rfl
@[simp] theorem Regs.writeBlLevel_blPin (r : Regs) (v : Byte) : (r.writeBlLevel v).blPin = r.blPin := rfl
@[simp] theorem Regs.writeBlLevel_blMode (r : Regs) (v : Byte) : (r.writeBlLevel v).blMode = r.blMode := rfl
@[simp] theorem Regs.writeBlLevel_blLevel (r : Regs) (v : Byte) : (r.writeBlLevel v).blLevel = v := rfl
@[simp] theorem Regs.writeBlLevel_curRow (r : Regs) (v : Byte) : (r.writeBlLevel v).curRow = r.curRow := rfl

@[simp] theorem Regs.writeCurRow_func (r : Regs) (v : BitVec 2) : (r.writeCurRow v).func = r.func := rfl
@[simp] theorem Regs.writeCurRow_dctrl (r : Regs) (v : BitVec 2) : (r.writeCurRow v).dctrl = r.dctrl := rfl
@[simp] theorem Regs.writeCurRow_emode (r : Regs) (v : BitVec 2) : (r.writeCurRow v).emode = r.emode := rfl
@[simp] theorem Regs.writeCurRow_rowOff (r : Regs) (v : BitVec 2) : (r.writeCurRow v).rowOff = r.rowOff := rfl
@[simp] theorem Regs.writeCurRow_numLines (r : Regs) (v : BitVec 2) : (r.writeCurRow v).numLines = r.numLines := rfl
@[simp] theorem Regs.writeCurRow_settle (r : Regs) (v : BitVec 2) : (r.writeCurRow v).settle = r.settle := rfl
@[simp] theorem Regs.writeCurRow_blPin (r : Regs) (v : BitVec 2) : (r.writeCurRow v).blPin = r.blPin := rfl
@[simp] theorem Regs.writeCurRow_blMode (r : Regs) (v : BitVec 2) : (r.writeCurRow v).blMode = r.blMode := rfl
@[simp] theorem Regs.writeCurRow_blLevel (r : Regs) (v : BitVec 2) : (r.writeCurRow v).blLevel = r.blLevel := rfl
@[simp] theorem Regs.writeCurRow_curRow (r : Regs) (v : BitVec 2) : (r.writeCurRow v).curRow = v := rfl

/-! ### The updates of the state -/

@[simp] theorem State.popEdge_params (s : State) :
    (s.popEdge).params = s.params := rfl
@[simp] theorem State.popEdge_regs (s : State) :
    (s.popEdge).regs = s.regs := rfl
@[simp] theorem State.popEdge_phase (s : State) :
    (s.popEdge).phase = s.phase := rfl
@[simp] theorem State.popEdge_cur (s : State) :
    (s.popEdge).cur = s.cur := rfl
@[simp] theorem State.popEdge_seq (s : State) :
    (s.popEdge).seq = s.seq := rfl
@[simp] theorem State.popEdge_ustep (s : State) :
    (s.popEdge).ustep = s.ustep := rfl
@[simp] theorem State.popEdge_resp (s : State) :
    (s.popEdge).resp = s.resp := rfl
@[simp] theorem State.popEdge_inputs (s : State) :
    (s.popEdge).inputs = s.inputs.tail := rfl
@[simp] theorem State.popEdge_trace (s : State) :
    (s.popEdge).trace = s.trace := rfl
@[simp] theorem State.popEdge_responses (s : State) :
    (s.popEdge).responses = s.responses := rfl

@[simp] theorem State.applyReset_params (s : State) :
    (s.applyReset).params = s.params := rfl
@[simp] theorem State.applyReset_regs (s : State) :
    (s.applyReset).regs = Regs.resetOf s.params := rfl
@[simp] theorem State.applyReset_phase (s : State) :
    (s.applyReset).phase = .idle := rfl
@[simp] theorem State.applyReset_cur (s : State) :
    (s.applyReset).cur = ⟨0, 0⟩ := rfl
@[simp] theorem State.applyReset_seq (s : State) :
    (s.applyReset).seq = [] := rfl
@[simp] theorem State.applyReset_ustep (s : State) :
    (s.applyReset).ustep = 0 := rfl
@[simp] theorem State.applyReset_resp (s : State) :
    (s.applyReset).resp = Response.done := rfl
@[simp] theorem State.applyReset_inputs (s : State) :
    (s.applyReset).inputs = s.inputs := rfl
@[simp] theorem State.applyReset_trace (s : State) :
    (s.applyReset).trace = s.trace := rfl
@[simp] theorem State.applyReset_responses (s : State) :
    (s.applyReset).responses = s.responses := rfl

@[simp] theorem State.latch_params (s : State) (req : Request) :
    (s.latch req).params = s.params := rfl
@[simp] theorem State.latch_regs (s : State) (req : Request) :
    (s.latch req).regs = s.regs := rfl
@[simp] theorem State.latch_phase (s : State) (req : Request) :
    (s.latch req).phase = s.phase := rfl
@[simp] theorem State.latch_cur (s : State) (req : Request) :
    (s.latch req).cur = req := rfl
@[simp] theorem State.latch_seq (s : State) (req : Request) :
    (s.latch req).seq = s.seq := rfl
@[simp] theorem State.latch_ustep (s : State) (req : Request) :
    (s.latch req).ustep = s.ustep := rfl
@[simp] theorem State.latch_resp (s : State) (req : Request) :
    (s.latch req).resp = s.resp := rfl
@[simp] theorem State.latch_inputs (s : State) (req : Request) :
    (s.latch req).inputs = s.inputs := rfl
@[simp] theorem State.latch_trace (s : State) (req : Request) :
    (s.latch req).trace = s.trace := rfl
@[simp] theorem State.latch_responses (s : State) (req : Request) :
    (s.latch req).responses = s.responses := rfl

@[simp] theorem State.perform_params (s : State) (op : PinOp) :
    (s.perform op).params = s.params := rfl
@[simp] theorem State.perform_regs (s : State) (op : PinOp) :
    (s.perform op).regs = s.regs := rfl
@[simp] theorem State.perform_phase (s : State) (op : PinOp) :
    (s.perform op).phase = s.phase := rfl
@[simp] theorem State.perform_cur (s : State) (op : PinOp) :
    (s.perform op).cur = s.cur := rfl
@[simp] theorem State.perform_seq (s : State) (op : PinOp) :
    (s.perform op).seq = s.seq := rfl
@[simp] theorem State.perform_ustep (s : State) (op : PinOp) :
    (s.perform op).ustep = s.ustep + 1 := rfl
@[simp] theorem State.perform_resp (s : State) (op : PinOp) :
    (s.perform op).resp = s.resp := rfl
@[simp] theorem State.perform_inputs (s : State) (op : PinOp) :
    (s.perform op).inputs = s.inputs := rfl
@[simp] theorem State.perform_trace (s : State) (op : PinOp) :
    (s.perform op).trace = s.trace ++ [op] := rfl
@[simp] theorem State.perform_responses (s : State) (op : PinOp) :
    (s.perform op).responses = s.responses := rfl

@[simp] theorem State.deliver_params (s : State) (resp : Response) :
    (s.deliver resp).params = s.params := rfl
@[simp] theorem State.deliver_regs (s : State) (resp : Response) :
    (s.deliver resp).regs = s.regs := rfl
@[simp] theorem State.deliver_phase (s : State) (resp : Response) :
    (s.deliver resp).phase = .idle := rfl
@[simp] theorem State.deliver_cur (s : State) (resp : Response) :
    (s.deliver resp).cur = s.cur := rfl
@[simp] theorem State.deliver_seq (s : State) (resp : Response) :
    (s.deliver resp).seq = s.seq := rfl
@[simp] theorem State.deliver_ustep (s : State) (resp : Response) :
    (s.deliver resp).ustep = s.ustep := rfl
@[simp] theorem State.deliver_resp (s : State) (resp : Response) :
    (s.deliver resp).resp = s.resp := rfl
@[simp] theorem State.deliver_inputs (s : State) (resp : Response) :
    (s.deliver resp).inputs = s.inputs := rfl
@[simp] theorem State.deliver_trace (s : State) (resp : Response) :
    (s.deliver resp).trace = s.trace := rfl
@[simp] theorem State.deliver_responses (s : State) (resp : Response) :
    (s.deliver resp).responses = s.responses ++ [resp] := rfl

@[simp] theorem State.presentRequest_params (s : State) (req : Request) :
    (s.presentRequest req).params = s.params := rfl
@[simp] theorem State.presentRequest_regs (s : State) (req : Request) :
    (s.presentRequest req).regs = s.regs := rfl
@[simp] theorem State.presentRequest_phase (s : State) (req : Request) :
    (s.presentRequest req).phase = .idle := rfl
@[simp] theorem State.presentRequest_cur (s : State) (req : Request) :
    (s.presentRequest req).cur = s.cur := rfl
@[simp] theorem State.presentRequest_seq (s : State) (req : Request) :
    (s.presentRequest req).seq = s.seq := rfl
@[simp] theorem State.presentRequest_ustep (s : State) (req : Request) :
    (s.presentRequest req).ustep = s.ustep := rfl
@[simp] theorem State.presentRequest_resp (s : State) (req : Request) :
    (s.presentRequest req).resp = s.resp := rfl
@[simp] theorem State.presentRequest_inputs (s : State) (req : Request) :
    (s.presentRequest req).inputs = { s.edge with rst := false, reqValid := true, reqWord := req.word, reqPayload := req.payload, otherDrives := [] } :: s.inputs.tail := rfl
@[simp] theorem State.presentRequest_trace (s : State) (req : Request) :
    (s.presentRequest req).trace = s.trace := rfl
@[simp] theorem State.presentRequest_responses (s : State) (req : Request) :
    (s.presentRequest req).responses = s.responses := rfl

@[simp] theorem State.finish_params (s : State) :
    (s.finish).params = s.params := rfl
@[simp] theorem State.finish_regs (s : State) :
    (s.finish).regs = s.regs := rfl
@[simp] theorem State.finish_phase (s : State) :
    (s.finish).phase = .idle := rfl
@[simp] theorem State.finish_cur (s : State) :
    (s.finish).cur = s.cur := rfl
@[simp] theorem State.finish_seq (s : State) :
    (s.finish).seq = s.seq := rfl
@[simp] theorem State.finish_ustep (s : State) :
    (s.finish).ustep = max s.ustep s.seq.length := rfl
@[simp] theorem State.finish_resp (s : State) :
    (s.finish).resp = s.resp := rfl
@[simp] theorem State.finish_inputs (s : State) :
    (s.finish).inputs = s.inputs := rfl
@[simp] theorem State.finish_trace (s : State) :
    (s.finish).trace = s.trace ++ s.seq.drop s.ustep := rfl
@[simp] theorem State.finish_responses (s : State) :
    (s.finish).responses = s.responses ++ [s.resp] := rfl

end Sys2Proof.Machine
end

