-- ==== Sys2Proof/Laws/Accept.lean ====
section
/-! SUPPORT. What accepting a request can do: the one inversion lemma of `accept`, and from it what every meaning has in
common. -/

namespace Sys2Proof.Machine

/-- `accept` on a well-formed block. -/
theorem State.accept_eq (s : State) (h : s.params.wf = true) (regs : Regs) (seq : List PinOp) (resp : Response) :
    s.accept regs seq resp =
      .next { s with regs := regs, seq := seq, resp := resp, ustep := 0, phase := .busy } := by
  simp [State.accept, h]

/-- Everything `accept` can do when it answers a state. -/
theorem State.accept_next {s t : State} {regs : Regs} {seq : List PinOp} {resp : Response}
    (h : s.accept regs seq resp = .next t) :
    s.params.wf = true ∧ t = { s with regs := regs, seq := seq, resp := resp, ustep := 0, phase := .busy } := by
  unfold State.accept at h
  split at h
  · next hw =>
    injection h with h
    exact ⟨hw, h.symm⟩
  · cases h

/-- Every meaning answers a state by `accept`, or refuses. -/
theorem exec_accepts {i : Instr} {s t : State} (h : exec i s = .next t) :
    ∃ regs seq resp, s.accept regs seq resp = .next t := by
  cases i with
  | configBacklight pin mode =>
    simp only [exec, execConfigBacklight, State.acceptReserved] at h
    split at h
    · exact ⟨_, _, _, h⟩
    · split at h
      · cases h
      · exact ⟨_, _, _, h⟩
  | _ => exact ⟨_, _, _, h⟩

/-- What no request touches when it is accepted, and where the sequencer then stands (R22). -/
theorem exec_frame {i : Instr} {s t : State} (h : exec i s = .next t) :
    t = { s with regs := t.regs, seq := t.seq, resp := t.resp, ustep := 0, phase := .busy } := by
  obtain ⟨regs, seq, resp, h⟩ := exec_accepts h
  rw [(State.accept_next h).2]

theorem exec_params {i : Instr} {s t : State} (h : exec i s = .next t) : t.params = s.params := by
  rw [exec_frame h]

/-- What no accepted request touches, a reserved one included. -/
theorem acceptRequest_frame {req : Request} {s t : State} (h : acceptRequest req s = .next t) :
    t = { s with cur := req, regs := t.regs, seq := t.seq, resp := t.resp, ustep := 0, phase := .busy } := by
  unfold acceptRequest at h
  split at h
  · rw [exec_frame h]
    rfl
  · rw [(State.accept_next h).2]
    rfl

/-- An accepted request is well-formed work: its block is. -/
theorem acceptRequest_wf {req : Request} {s t : State} (h : acceptRequest req s = .next t) : s.params.wf = true := by
  unfold acceptRequest at h
  split at h
  · obtain ⟨_, _, _, h⟩ := exec_accepts h
    exact (State.accept_next h).1
  · exact (State.accept_next h).1

/-- `serve` is an acceptance followed by `finish`. -/
theorem serve_next {req : Request} {s u : State} (h : serve req s = .next u) :
    ∃ t, acceptRequest req s = .next t ∧ u = t.finish := by
  unfold serve at h
  split at h
  · next t ht =>
    injection h with h
    exact ⟨t, ht, h.symm⟩
  · cases h
  · cases h

/-- An accepted request either ran its instruction on the latched state, or was reserved and did nothing (R22, R83). -/
theorem acceptRequest_cases {req : Request} {s t : State} (h : acceptRequest req s = .next t) :
    (∃ i, decode req = .ok i ∧ exec i (s.latch req) = .next t) ∨
    (∃ e, decode req = .error e ∧ t.regs = s.regs ∧ t.seq = [] ∧ t.resp = Response.reserved) := by
  unfold acceptRequest at h
  split at h
  · next i hd => exact .inl ⟨i, hd, h⟩
  · next e hd =>
    refine .inr ⟨e, hd, ?_⟩
    rw [(State.accept_next h).2]
    exact ⟨rfl, rfl, rfl⟩

/-- Every accepted instruction answers with one of three responses (R79). -/
theorem exec_resp {i : Instr} {s t : State} (h : exec i s = .next t) :
    t.resp = Response.done ∨ t.resp = Response.oneByte ∨ t.resp = Response.reserved := by
  cases i
  case configBacklight pin mode =>
    simp only [exec, execConfigBacklight, State.acceptReserved] at h
    split at h
    · rw [(State.accept_next h).2]
      exact .inr (.inr rfl)
    · split at h
      · cases h
      · rw [(State.accept_next h).2]
        exact .inl rfl
  case write =>
    rw [(State.accept_next h).2]
    exact .inr (.inl rfl)
  all_goals
    rw [(State.accept_next h).2]
    exact .inl rfl

end Sys2Proof.Machine
end

