-- ==== Sys2Proof/Laws/Decode.lean ====
section
/-! SUPPORT. The fields of a request word and of a payload, read back from the words the encoder builds. -/

namespace Sys2Proof

theorem requestWord_bit (op : BitVec 5) (f : Bool) (b a : Byte) (i : Nat) :
    (requestWord op f b a).getLsbD i =
      if i < 8 then a.getLsbD i
      else if i < 16 then b.getLsbD (i - 8)
      else if i < 17 then f && decide (i = 16)
      else if i < 27 then false
      else op.getLsbD (i - 27) := by
  unfold requestWord
  simp only [BitVec.getLsbD_append, BitVec.getLsbD_ofBool, BitVec.getLsbD_zero]
  grind

@[simp] theorem op_requestWord (op : BitVec 5) (f : Bool) (b a : Byte) (pay : BitVec 64) :
    Request.op ⟨requestWord op f b a, pay⟩ = op := by
  apply BitVec.eq_of_getLsbD_eq
  intro i hi
  simp only [Request.op, BitVec.getLsbD_extractLsb', requestWord_bit]
  grind

@[simp] theorem f_requestWord (op : BitVec 5) (f : Bool) (b a : Byte) (pay : BitVec 64) :
    Request.f ⟨requestWord op f b a, pay⟩ = f := by
  change (requestWord op f b a).getLsbD 16 = f
  rw [requestWord_bit]
  simp

@[simp] theorem b_requestWord (op : BitVec 5) (f : Bool) (b a : Byte) (pay : BitVec 64) :
    Request.b ⟨requestWord op f b a, pay⟩ = b := by
  apply BitVec.eq_of_getLsbD_eq
  intro i hi
  simp only [Request.b, BitVec.getLsbD_extractLsb', requestWord_bit]
  grind

@[simp] theorem a_requestWord (op : BitVec 5) (f : Bool) (b a : Byte) (pay : BitVec 64) :
    Request.a ⟨requestWord op f b a, pay⟩ = a := by
  apply BitVec.eq_of_getLsbD_eq
  intro i hi
  simp only [Request.a, BitVec.getLsbD_extractLsb', requestWord_bit]
  grind

/-- The bits of a payload, byte by byte. -/
theorem payloadOf_bit (g : Glyph) (i : Nat) :
    (payloadOf g).getLsbD i =
      if i < 8 then g.p0.getLsbD i
      else if i < 16 then g.p1.getLsbD (i - 8)
      else if i < 24 then g.p2.getLsbD (i - 16)
      else if i < 32 then g.p3.getLsbD (i - 24)
      else if i < 40 then g.p4.getLsbD (i - 32)
      else if i < 48 then g.p5.getLsbD (i - 40)
      else if i < 56 then g.p6.getLsbD (i - 48)
      else g.p7.getLsbD (i - 56) := by
  unfold payloadOf
  simp only [BitVec.getLsbD_append]
  grind

theorem glyph_payloadOf (word : BitVec 32) (g : Glyph) : Request.glyph ⟨word, payloadOf g⟩ = g := by
  cases g
  simp only [Request.glyph, Request.pay, Glyph.mk.injEq]
  refine ⟨?_, ?_, ?_, ?_, ?_, ?_, ?_, ?_⟩ <;>
  · apply BitVec.eq_of_getLsbD_eq
    intro i hi
    simp only [BitVec.getLsbD_extractLsb', payloadOf_bit]
    grind

theorem rowOffsets_payloadOf (word : BitVec 32) (g : Glyph) :
    Request.rowOffsets ⟨word, payloadOf g⟩ = ⟨g.p0, g.p1, g.p2, g.p3⟩ := by
  have h := glyph_payloadOf word g
  cases g
  simp only [Request.glyph, Glyph.mk.injEq] at h
  simp [Request.rowOffsets, h]

/-- The encoder's word as a sum of shifted fields (R89). -/
theorem requestWord_eq (op : BitVec 5) (f : Bool) (b a : Byte) :
    requestWord op f b a =
      (op.setWidth 32 <<< 27) ||| (if f then 0x00010000 else 0) ||| (b.setWidth 32 <<< 8) ||| a.setWidth 32 := by
  apply BitVec.eq_of_getLsbD_eq
  intro i hi
  rw [requestWord_bit]
  have ha := a.getLsbD_of_ge (i := i)
  have hb := b.getLsbD_of_ge (i := i - 8)
  simp only [BitVec.getLsbD_or, BitVec.getLsbD_shiftLeft, BitVec.getLsbD_setWidth]
  interval_cases i <;> rcases f <;> simp_all

/-- A request that decodes has its instruction's opcode (R74). -/
theorem decode_opcode {r : Request} {i : Instr} (h : decode r = .ok i) : r.op = i.opcode := by
  apply BitVec.eq_of_toNat_eq
  unfold decode at h
  split at h <;>
    first
    | (rename_i he
       injection h with h
       subst h
       rw [he]
       rfl)
    | cases h

/-- A request that does not decode has a reserved opcode (R83). -/
theorem decode_error {r : Request} {e : DecodeError} (h : decode r = .error e) :
    r.op.toNat = 0 ∨ 0x17 ≤ r.op.toNat := by
  unfold decode at h
  generalize r.op.toNat = n at h
  by_contra hn
  have h1 : 1 ≤ n := by omega
  have h2 : n ≤ 22 := by omega
  interval_cases n <;> cases h

end Sys2Proof
end

