-- ==== Sys2Proof/Laws/Operands.lean ====
section
/-! SUPPORT. What the operand and flag computations give: the bounds of the row clamp and of the settle clamp, the flags of the
toggles, and what the register writes hard-wire. -/

namespace Sys2Proof.Machine

theorem usableLines_pos (n : Byte) : 0 < usableLines n := by unfold usableLines; omega

theorem usableLines_le (n : Byte) : usableLines n ≤ 4 := by unfold usableLines; omega

/-- The clamp as a number: nothing is lost in its two bits. -/
theorem clampRow_toNat (n row : Byte) : (clampRow n row).toNat = min row.toNat (usableLines n - 1) := by
  have := usableLines_le n
  simp only [clampRow, BitVec.toNat_ofNat]
  omega

theorem clampRow_lt (n row : Byte) : (clampRow n row).toNat < usableLines n := by
  have := usableLines_pos n
  rw [clampRow_toNat]
  omega

theorem clampSettle_toNat (v : BitVec 16) : (clampSettle v).toNat = max v.toNat 1 := by
  have := v.isLt
  simp only [clampSettle, BitVec.toNat_ofNat]
  omega

theorem clampSettle_ne_zero (v : BitVec 16) : clampSettle v ≠ 0 := by
  intro h
  have := congrArg BitVec.toNat h
  rw [clampSettle_toNat] at this
  simp at this

/-- Masking with 7 is the remainder by 8. -/
theorem cgramAddress_toNat (index : Byte) : (cgramAddress index).toNat = 8 * (index.toNat % 8) := by
  revert index
  decide

@[simp] theorem rowOffset_zero (t : RowOffsets) : rowOffset t 0 = t.o0 := rfl

@[simp] theorem rowOffset_one (t : RowOffsets) : rowOffset t 1 = t.o1 := rfl

@[simp] theorem rowOffset_two (t : RowOffsets) : rowOffset t 2 = t.o2 := rfl

@[simp] theorem rowOffset_three (t : RowOffsets) : rowOffset t 3 = t.o3 := rfl

/-- The unused bits of FUNC are hard-wired, whatever is written. -/
theorem writeFunc_unused (r : Regs) (bus8 : Bool) (v : Byte) :
    (r.writeFunc bus8 v).func &&& 0xF3 = if bus8 then 0x10 else 0x00 := by
  revert v bus8
  simp only [Regs.writeFunc]
  decide

/-- The unused bits of DCTRL are hard-wired, whatever is written. -/
theorem writeDctrl_unused (r : Regs) (v : Byte) : (r.writeDctrl v).dctrl &&& 0xF8 = 0 := by
  revert v
  simp only [Regs.writeDctrl]
  decide

/-- The unused bits of EMODE are hard-wired, whatever is written. -/
theorem writeEmode_unused (r : Regs) (v : Byte) : (r.writeEmode v).emode &&& 0xFC = 0 := by
  revert v
  simp only [Regs.writeEmode]
  decide

end Sys2Proof.Machine
end

