-- ==== Sys2Proof/Laws/PerInstr.lean ====
section
/-! SUPPORT. What holds of every instruction's encoding, one lemma per constructor: the opcode of its row, and no ignored bit
set. -/

namespace Sys2Proof.Laws

/-- A word that keeps every bit under a mask it is built within. -/
theorem requestWord_and (op : BitVec 5) (f : Bool) (b a : Byte) (m : BitVec 32)
    (h : ∀ i, i < 32 → (requestWord op f b a).getLsbD i = true → m.getLsbD i = true) :
    requestWord op f b a &&& m = requestWord op f b a := by
  apply BitVec.eq_of_getLsbD_eq
  intro i hi
  rw [BitVec.getLsbD_and]
  have := h i hi
  cases hb : (requestWord op f b a).getLsbD i
  · rfl
  · rw [this hb]
    rfl

/-- The word of a request whose instruction takes these operands. -/
theorem encode_word_and {i : Instr} {m : BitVec 32} (hop : m &&& 0xF8000000 = 0xF8000000)
    (hf : i.operandF = true → m.getLsbD 16 = true) (hb : ∀ k, i.operandB.getLsbD k = true → m.getLsbD (k + 8) = true)
    (ha : ∀ k, i.operandA.getLsbD k = true → m.getLsbD k = true) : (encode i).word &&& m = (encode i).word := by
  have hm : ∀ k, 27 ≤ k → k < 32 → m.getLsbD k = true := by
    intro k h1 h2
    have h3 := congrArg (fun x => x.getLsbD k) hop
    have h4 : BitVec.getLsbD (0xF8000000 : BitVec 32) k = true := by interval_cases k <;> rfl
    rw [BitVec.getLsbD_and] at h3
    simp only [h4, Bool.and_true] at h3
    exact h3
  refine requestWord_and _ _ _ _ _ fun k hk hbit => ?_
  rw [requestWord_bit] at hbit
  by_cases h1 : k < 8
  · rw [if_pos h1] at hbit
    exact ha k hbit
  · by_cases h2 : k < 16
    · rw [if_neg h1, if_pos h2] at hbit
      have := hb _ hbit
      rwa [Nat.sub_add_cancel (by omega)] at this
    · by_cases h3 : k < 17
      · rw [if_neg h1, if_neg h2, if_pos h3] at hbit
        obtain rfl : k = 16 := by omega
        exact hf (by simpa using hbit)
      · by_cases h4 : k < 27
        · rw [if_neg h1, if_neg h2, if_neg h3, if_pos h4] at hbit
          cases hbit
        · exact hm k (by omega) hk

/-- The payload of four bytes has nothing above them. -/
theorem payloadOf_four (b0 b1 b2 b3 : Byte) :
    payloadOf ⟨b0, b1, b2, b3, 0, 0, 0, 0⟩ &&& 0x00000000FFFFFFFF = payloadOf ⟨b0, b1, b2, b3, 0, 0, 0, 0⟩ := by
  apply BitVec.eq_of_getLsbD_eq
  intro i hi
  rw [BitVec.getLsbD_and, payloadOf_bit]
  by_cases h : i < 32
  · have : BitVec.getLsbD (0x00000000FFFFFFFF : BitVec 64) i = true := by interval_cases i <;> rfl
    rw [this, Bool.and_true]
  · have h0 : ∀ k, BitVec.getLsbD (0 : Byte) k = false := fun k => BitVec.getLsbD_zero
    simp only [h0, ite_self]
    grind

/-- The payload of a request that reads none. -/
theorem payloadOf_zero : payloadOf ⟨0, 0, 0, 0, 0, 0, 0, 0⟩ &&& 0 = payloadOf ⟨0, 0, 0, 0, 0, 0, 0, 0⟩ := by decide

/-- Every bit of a byte is under a mask that covers the byte's place. -/
theorem under_mask {m : BitVec 32} {off : Nat} (hm : ∀ k, k < 8 → m.getLsbD (k + off) = true) (v : Byte) (k : Nat)
    (h : v.getLsbD k = true) : m.getLsbD (k + off) = true := by
  refine hm k ?_
  by_contra hk
  rw [BitVec.getLsbD_of_ge _ _ (by omega)] at h
  cases h

/-- A zero byte has no bit to be under a mask. -/
theorem zero_under_mask {m : BitVec 32} {off : Nat} (k : Nat) (h : BitVec.getLsbD (0 : Byte) k = true) :
    m.getLsbD (k + off) = true := by
  rw [show BitVec.getLsbD (0 : Byte) k = false from BitVec.getLsbD_zero] at h
  cases h

/-- The mode byte has bits in its two low places alone. -/
theorem mode_under_mask {m : BitVec 32} {off : Nat} (hm : ∀ k, k < 2 → m.getLsbD (k + off) = true) (mode : BitVec 2)
    (k : Nat) (h : (0#6 ++ mode : Byte).getLsbD k = true) : m.getLsbD (k + off) = true := by
  refine hm k ?_
  by_contra hk
  rw [BitVec.getLsbD_append, if_neg (by simpa using hk)] at h
  simp at h

end Sys2Proof.Laws

/-- The encoded word carries the opcode of the instruction's row, and that is an opcode of R74's map. -/
def Sys2Proof.Laws.EncodeOpcode.Statement (i : Sys2Proof.Instr) : Prop :=
  (Sys2Proof.encode i).op = i.opcode ∧ 1 ≤ (Sys2Proof.encode i).op.toNat ∧ (Sys2Proof.encode i).op.toNat ≤ 0x16

/-- The encoder sets no bit that the request ignores: R84's canonical form is the encoded request itself. -/
def Sys2Proof.Laws.EncodeCanonical.Statement (i : Sys2Proof.Instr) : Prop :=
  (Sys2Proof.encode i).canonical = Sys2Proof.encode i

namespace Sys2Proof.Laws

/-- An encoded request whose opcode is in R74's map. -/
theorem encodeOpcode_of {i : Instr} (h : 1 ≤ i.opcode.toNat ∧ i.opcode.toNat ≤ 0x16) : EncodeOpcode.Statement i := by
  have he : (encode i).op = i.opcode := op_requestWord _ _ _ _ _
  exact ⟨he, he ▸ h.1, he ▸ h.2⟩

/-- An encoded request within its masks is its own canonical form. -/
theorem encodeCanonical_of {i : Instr} (m : BitVec 32) (pm : BitVec 64) (hm : usedWordBits i.opcode = m)
    (hpm : usedPayloadBits i.opcode = pm) (hw : (encode i).word &&& m = (encode i).word)
    (hp : payloadOf i.operandPay &&& pm = payloadOf i.operandPay) : EncodeCanonical.Statement i := by
  have he : (encode i).op = i.opcode := op_requestWord _ _ _ _ _
  unfold EncodeCanonical.Statement Request.canonical
  rw [he, hm, hpm, hw]
  exact congrArg (Request.mk _) hp

end Sys2Proof.Laws

theorem Sys2Proof.Laws.EncodeOpcode.lcdBegin (cols rows : Sys2Proof.Byte) (font5x10 : Bool) :
    Sys2Proof.Laws.EncodeOpcode.Statement (.lcdBegin cols rows font5x10) :=
  Sys2Proof.Laws.encodeOpcode_of (by simp [Sys2Proof.Instr.opcode])

theorem Sys2Proof.Laws.EncodeOpcode.clear :
    Sys2Proof.Laws.EncodeOpcode.Statement (.clear) :=
  Sys2Proof.Laws.encodeOpcode_of (by simp [Sys2Proof.Instr.opcode])

theorem Sys2Proof.Laws.EncodeOpcode.home :
    Sys2Proof.Laws.EncodeOpcode.Statement (.home) :=
  Sys2Proof.Laws.encodeOpcode_of (by simp [Sys2Proof.Instr.opcode])

theorem Sys2Proof.Laws.EncodeOpcode.setCursor (col row : Sys2Proof.Byte) :
    Sys2Proof.Laws.EncodeOpcode.Statement (.setCursor col row) :=
  Sys2Proof.Laws.encodeOpcode_of (by simp [Sys2Proof.Instr.opcode])

theorem Sys2Proof.Laws.EncodeOpcode.displayOn :
    Sys2Proof.Laws.EncodeOpcode.Statement (.displayOn) :=
  Sys2Proof.Laws.encodeOpcode_of (by simp [Sys2Proof.Instr.opcode])

theorem Sys2Proof.Laws.EncodeOpcode.displayOff :
    Sys2Proof.Laws.EncodeOpcode.Statement (.displayOff) :=
  Sys2Proof.Laws.encodeOpcode_of (by simp [Sys2Proof.Instr.opcode])

theorem Sys2Proof.Laws.EncodeOpcode.cursorOn :
    Sys2Proof.Laws.EncodeOpcode.Statement (.cursorOn) :=
  Sys2Proof.Laws.encodeOpcode_of (by simp [Sys2Proof.Instr.opcode])

theorem Sys2Proof.Laws.EncodeOpcode.cursorOff :
    Sys2Proof.Laws.EncodeOpcode.Statement (.cursorOff) :=
  Sys2Proof.Laws.encodeOpcode_of (by simp [Sys2Proof.Instr.opcode])

theorem Sys2Proof.Laws.EncodeOpcode.blinkOn :
    Sys2Proof.Laws.EncodeOpcode.Statement (.blinkOn) :=
  Sys2Proof.Laws.encodeOpcode_of (by simp [Sys2Proof.Instr.opcode])

theorem Sys2Proof.Laws.EncodeOpcode.blinkOff :
    Sys2Proof.Laws.EncodeOpcode.Statement (.blinkOff) :=
  Sys2Proof.Laws.encodeOpcode_of (by simp [Sys2Proof.Instr.opcode])

theorem Sys2Proof.Laws.EncodeOpcode.scrollLeft :
    Sys2Proof.Laws.EncodeOpcode.Statement (.scrollLeft) :=
  Sys2Proof.Laws.encodeOpcode_of (by simp [Sys2Proof.Instr.opcode])

theorem Sys2Proof.Laws.EncodeOpcode.scrollRight :
    Sys2Proof.Laws.EncodeOpcode.Statement (.scrollRight) :=
  Sys2Proof.Laws.encodeOpcode_of (by simp [Sys2Proof.Instr.opcode])

theorem Sys2Proof.Laws.EncodeOpcode.leftToRight :
    Sys2Proof.Laws.EncodeOpcode.Statement (.leftToRight) :=
  Sys2Proof.Laws.encodeOpcode_of (by simp [Sys2Proof.Instr.opcode])

theorem Sys2Proof.Laws.EncodeOpcode.rightToLeft :
    Sys2Proof.Laws.EncodeOpcode.Statement (.rightToLeft) :=
  Sys2Proof.Laws.encodeOpcode_of (by simp [Sys2Proof.Instr.opcode])

theorem Sys2Proof.Laws.EncodeOpcode.autoscrollOn :
    Sys2Proof.Laws.EncodeOpcode.Statement (.autoscrollOn) :=
  Sys2Proof.Laws.encodeOpcode_of (by simp [Sys2Proof.Instr.opcode])

theorem Sys2Proof.Laws.EncodeOpcode.autoscrollOff :
    Sys2Proof.Laws.EncodeOpcode.Statement (.autoscrollOff) :=
  Sys2Proof.Laws.encodeOpcode_of (by simp [Sys2Proof.Instr.opcode])

theorem Sys2Proof.Laws.EncodeOpcode.createChar (index : Sys2Proof.Byte) (pattern : Sys2Proof.Glyph) :
    Sys2Proof.Laws.EncodeOpcode.Statement (.createChar index pattern) :=
  Sys2Proof.Laws.encodeOpcode_of (by simp [Sys2Proof.Instr.opcode])

theorem Sys2Proof.Laws.EncodeOpcode.write (value : Sys2Proof.Byte) :
    Sys2Proof.Laws.EncodeOpcode.Statement (.write value) :=
  Sys2Proof.Laws.encodeOpcode_of (by simp [Sys2Proof.Instr.opcode])

theorem Sys2Proof.Laws.EncodeOpcode.setRowOffsets (offsets : Sys2Proof.RowOffsets) :
    Sys2Proof.Laws.EncodeOpcode.Statement (.setRowOffsets offsets) :=
  Sys2Proof.Laws.encodeOpcode_of (by simp [Sys2Proof.Instr.opcode])

theorem Sys2Proof.Laws.EncodeOpcode.setSettleTime (us : BitVec 16) :
    Sys2Proof.Laws.EncodeOpcode.Statement (.setSettleTime us) :=
  Sys2Proof.Laws.encodeOpcode_of (by simp [Sys2Proof.Instr.opcode])

theorem Sys2Proof.Laws.EncodeOpcode.configBacklight (pin : Sys2Proof.PinId) (mode : BitVec 2) :
    Sys2Proof.Laws.EncodeOpcode.Statement (.configBacklight pin mode) :=
  Sys2Proof.Laws.encodeOpcode_of (by simp [Sys2Proof.Instr.opcode])

theorem Sys2Proof.Laws.EncodeOpcode.setBacklight (level : Sys2Proof.Byte) :
    Sys2Proof.Laws.EncodeOpcode.Statement (.setBacklight level) :=
  Sys2Proof.Laws.encodeOpcode_of (by simp [Sys2Proof.Instr.opcode])

theorem Sys2Proof.Laws.EncodeCanonical.lcdBegin (cols rows : Sys2Proof.Byte) (font5x10 : Bool) :
    Sys2Proof.Laws.EncodeCanonical.Statement (.lcdBegin cols rows font5x10) :=
  Sys2Proof.Laws.encodeCanonical_of 0xF801FFFF 0 rfl rfl
    (Sys2Proof.Laws.encode_word_and (by decide) (fun _ => by decide)
      (Sys2Proof.Laws.under_mask (by decide) _) (Sys2Proof.Laws.under_mask (off := 0) (by decide) _))
    Sys2Proof.Laws.payloadOf_zero

theorem Sys2Proof.Laws.EncodeCanonical.clear :
    Sys2Proof.Laws.EncodeCanonical.Statement (.clear) :=
  Sys2Proof.Laws.encodeCanonical_of 0xF8000000 0 rfl rfl (by decide) Sys2Proof.Laws.payloadOf_zero

theorem Sys2Proof.Laws.EncodeCanonical.home :
    Sys2Proof.Laws.EncodeCanonical.Statement (.home) :=
  Sys2Proof.Laws.encodeCanonical_of 0xF8000000 0 rfl rfl (by decide) Sys2Proof.Laws.payloadOf_zero

theorem Sys2Proof.Laws.EncodeCanonical.setCursor (col row : Sys2Proof.Byte) :
    Sys2Proof.Laws.EncodeCanonical.Statement (.setCursor col row) :=
  Sys2Proof.Laws.encodeCanonical_of 0xF800FFFF 0 rfl rfl
    (Sys2Proof.Laws.encode_word_and (by decide) (nofun)
      (Sys2Proof.Laws.under_mask (by decide) _) (Sys2Proof.Laws.under_mask (off := 0) (by decide) _))
    Sys2Proof.Laws.payloadOf_zero

theorem Sys2Proof.Laws.EncodeCanonical.displayOn :
    Sys2Proof.Laws.EncodeCanonical.Statement (.displayOn) :=
  Sys2Proof.Laws.encodeCanonical_of 0xF8000000 0 rfl rfl (by decide) Sys2Proof.Laws.payloadOf_zero

theorem Sys2Proof.Laws.EncodeCanonical.displayOff :
    Sys2Proof.Laws.EncodeCanonical.Statement (.displayOff) :=
  Sys2Proof.Laws.encodeCanonical_of 0xF8000000 0 rfl rfl (by decide) Sys2Proof.Laws.payloadOf_zero

theorem Sys2Proof.Laws.EncodeCanonical.cursorOn :
    Sys2Proof.Laws.EncodeCanonical.Statement (.cursorOn) :=
  Sys2Proof.Laws.encodeCanonical_of 0xF8000000 0 rfl rfl (by decide) Sys2Proof.Laws.payloadOf_zero

theorem Sys2Proof.Laws.EncodeCanonical.cursorOff :
    Sys2Proof.Laws.EncodeCanonical.Statement (.cursorOff) :=
  Sys2Proof.Laws.encodeCanonical_of 0xF8000000 0 rfl rfl (by decide) Sys2Proof.Laws.payloadOf_zero

theorem Sys2Proof.Laws.EncodeCanonical.blinkOn :
    Sys2Proof.Laws.EncodeCanonical.Statement (.blinkOn) :=
  Sys2Proof.Laws.encodeCanonical_of 0xF8000000 0 rfl rfl (by decide) Sys2Proof.Laws.payloadOf_zero

theorem Sys2Proof.Laws.EncodeCanonical.blinkOff :
    Sys2Proof.Laws.EncodeCanonical.Statement (.blinkOff) :=
  Sys2Proof.Laws.encodeCanonical_of 0xF8000000 0 rfl rfl (by decide) Sys2Proof.Laws.payloadOf_zero

theorem Sys2Proof.Laws.EncodeCanonical.scrollLeft :
    Sys2Proof.Laws.EncodeCanonical.Statement (.scrollLeft) :=
  Sys2Proof.Laws.encodeCanonical_of 0xF8000000 0 rfl rfl (by decide) Sys2Proof.Laws.payloadOf_zero

theorem Sys2Proof.Laws.EncodeCanonical.scrollRight :
    Sys2Proof.Laws.EncodeCanonical.Statement (.scrollRight) :=
  Sys2Proof.Laws.encodeCanonical_of 0xF8000000 0 rfl rfl (by decide) Sys2Proof.Laws.payloadOf_zero

theorem Sys2Proof.Laws.EncodeCanonical.leftToRight :
    Sys2Proof.Laws.EncodeCanonical.Statement (.leftToRight) :=
  Sys2Proof.Laws.encodeCanonical_of 0xF8000000 0 rfl rfl (by decide) Sys2Proof.Laws.payloadOf_zero

theorem Sys2Proof.Laws.EncodeCanonical.rightToLeft :
    Sys2Proof.Laws.EncodeCanonical.Statement (.rightToLeft) :=
  Sys2Proof.Laws.encodeCanonical_of 0xF8000000 0 rfl rfl (by decide) Sys2Proof.Laws.payloadOf_zero

theorem Sys2Proof.Laws.EncodeCanonical.autoscrollOn :
    Sys2Proof.Laws.EncodeCanonical.Statement (.autoscrollOn) :=
  Sys2Proof.Laws.encodeCanonical_of 0xF8000000 0 rfl rfl (by decide) Sys2Proof.Laws.payloadOf_zero

theorem Sys2Proof.Laws.EncodeCanonical.autoscrollOff :
    Sys2Proof.Laws.EncodeCanonical.Statement (.autoscrollOff) :=
  Sys2Proof.Laws.encodeCanonical_of 0xF8000000 0 rfl rfl (by decide) Sys2Proof.Laws.payloadOf_zero

theorem Sys2Proof.Laws.EncodeCanonical.createChar (index : Sys2Proof.Byte) (pattern : Sys2Proof.Glyph) :
    Sys2Proof.Laws.EncodeCanonical.Statement (.createChar index pattern) :=
  Sys2Proof.Laws.encodeCanonical_of 0xF80000FF 0xFFFFFFFFFFFFFFFF rfl rfl
    (Sys2Proof.Laws.encode_word_and (by decide) (nofun)
      (Sys2Proof.Laws.zero_under_mask) (Sys2Proof.Laws.under_mask (off := 0) (by decide) _))
    BitVec.and_allOnes

theorem Sys2Proof.Laws.EncodeCanonical.write (value : Sys2Proof.Byte) :
    Sys2Proof.Laws.EncodeCanonical.Statement (.write value) :=
  Sys2Proof.Laws.encodeCanonical_of 0xF80000FF 0 rfl rfl
    (Sys2Proof.Laws.encode_word_and (by decide) (nofun)
      (Sys2Proof.Laws.zero_under_mask) (Sys2Proof.Laws.under_mask (off := 0) (by decide) _))
    Sys2Proof.Laws.payloadOf_zero

theorem Sys2Proof.Laws.EncodeCanonical.setRowOffsets (offsets : Sys2Proof.RowOffsets) :
    Sys2Proof.Laws.EncodeCanonical.Statement (.setRowOffsets offsets) :=
  Sys2Proof.Laws.encodeCanonical_of 0xF8000000 0x00000000FFFFFFFF rfl rfl
    (Sys2Proof.Laws.encode_word_and (by decide) (nofun)
      (Sys2Proof.Laws.zero_under_mask) (Sys2Proof.Laws.zero_under_mask (off := 0)))
    (Sys2Proof.Laws.payloadOf_four _ _ _ _)

theorem Sys2Proof.Laws.EncodeCanonical.setSettleTime (us : BitVec 16) :
    Sys2Proof.Laws.EncodeCanonical.Statement (.setSettleTime us) :=
  Sys2Proof.Laws.encodeCanonical_of 0xF800FFFF 0 rfl rfl
    (Sys2Proof.Laws.encode_word_and (by decide) (nofun)
      (Sys2Proof.Laws.under_mask (by decide) _) (Sys2Proof.Laws.under_mask (off := 0) (by decide) _))
    Sys2Proof.Laws.payloadOf_zero

theorem Sys2Proof.Laws.EncodeCanonical.configBacklight (pin : Sys2Proof.PinId) (mode : BitVec 2) :
    Sys2Proof.Laws.EncodeCanonical.Statement (.configBacklight pin mode) :=
  Sys2Proof.Laws.encodeCanonical_of 0xF80003FF 0 rfl rfl
    (Sys2Proof.Laws.encode_word_and (by decide) (nofun)
      (Sys2Proof.Laws.mode_under_mask (by decide) _) (Sys2Proof.Laws.under_mask (off := 0) (by decide) _))
    Sys2Proof.Laws.payloadOf_zero

theorem Sys2Proof.Laws.EncodeCanonical.setBacklight (level : Sys2Proof.Byte) :
    Sys2Proof.Laws.EncodeCanonical.Statement (.setBacklight level) :=
  Sys2Proof.Laws.encodeCanonical_of 0xF80000FF 0 rfl rfl
    (Sys2Proof.Laws.encode_word_and (by decide) (nofun)
      (Sys2Proof.Laws.zero_under_mask) (Sys2Proof.Laws.under_mask (off := 0) (by decide) _))
    Sys2Proof.Laws.payloadOf_zero
end

