-- ==== Sys2Proof/Laws/Sequencer.lean ====
section
/-! SUPPORT. What one clock edge can do, said once: the cases of an edge's event, and the inversion lemma of `step`. -/

namespace Sys2Proof.Machine

theorem State.edgeRefusal_eq_none {s : State} :
    s.edgeRefusal = none ↔ s.params.wf = true ∧ s.contested = false := by
  unfold State.edgeRefusal
  split
  · simp_all
  · split <;> simp_all

/-- When each event happens (R22, R76, R78, R79, R186). -/
theorem State.edgeEvent_cases (s : State) :
    (s.edgeEvent = .reset ∧ s.edge.rst = true) ∨
    (∃ req, s.edgeEvent = .accept req ∧ s.phase = .idle ∧ s.edge.rst = false ∧ s.edge.reqValid = true ∧
      req = ⟨s.edge.reqWord, s.edge.reqPayload⟩) ∨
    (∃ op, s.edgeEvent = .perform op ∧ s.phase = .busy ∧ s.edge.rst = false ∧ s.edge.poReady = true ∧
      s.seq[s.ustep]? = some op) ∨
    (s.edgeEvent = .deliver s.resp ∧ s.phase = .busy ∧ s.edge.rst = false ∧ s.edge.respReady = true ∧
      s.seq.length ≤ s.ustep) ∨
    (s.edgeEvent = .hold ∧ s.edge.rst = false ∧
      ((s.phase = .idle ∧ s.edge.reqValid = false) ∨
       (s.phase = .busy ∧ s.ustep < s.seq.length ∧ s.edge.poReady = false) ∨
       (s.phase = .busy ∧ s.seq.length ≤ s.ustep ∧ s.edge.respReady = false))) := by
  unfold State.edgeEvent State.reqReady State.presentedOp State.presentedResponse
  rcases hr : s.edge.rst <;> rcases hp : s.phase
  · rcases hv : s.edge.reqValid <;> simp
  · by_cases hu : s.ustep < s.seq.length
    · rcases ho : s.edge.poReady <;> simp [hu]
    · have hle : s.seq.length ≤ s.ustep := Nat.le_of_not_lt hu
      rcases ho : s.edge.respReady <;> simp [hle, hu]
  · simp
  · simp

/-- Everything a step can do when it answers a state. -/
theorem step_cases {s t : State} (h : step s = .next t) :
    s.params.wf = true ∧ s.contested = false ∧
    ((s.edge.rst = true ∧ t = s.popEdge.applyReset) ∨
     (∃ req, s.phase = .idle ∧ s.edge.rst = false ∧ s.edge.reqValid = true ∧
       req = ⟨s.edge.reqWord, s.edge.reqPayload⟩ ∧ acceptRequest req s.popEdge = .next t) ∨
     (∃ op, s.phase = .busy ∧ s.edge.rst = false ∧ s.edge.poReady = true ∧ s.seq[s.ustep]? = some op ∧
       t = s.popEdge.perform op) ∨
     (s.phase = .busy ∧ s.edge.rst = false ∧ s.edge.respReady = true ∧ s.seq.length ≤ s.ustep ∧
       t = s.popEdge.deliver s.resp) ∨
     (s.edge.rst = false ∧ t = s.popEdge ∧
       ((s.phase = .idle ∧ s.edge.reqValid = false) ∨
        (s.phase = .busy ∧ s.ustep < s.seq.length ∧ s.edge.poReady = false) ∨
        (s.phase = .busy ∧ s.seq.length ≤ s.ustep ∧ s.edge.respReady = false)))) := by
  unfold step at h
  split at h
  · cases h
  · next hn =>
    obtain ⟨hw, hc⟩ := State.edgeRefusal_eq_none.1 hn
    refine ⟨hw, hc, ?_⟩
    rcases s.edgeEvent_cases with ⟨he, hr⟩ | ⟨req, he, hp, hr, hv, hq⟩ | ⟨op, he, hp, hr, ho, hs⟩ |
      ⟨he, hp, hr, hv, hl⟩ | ⟨he, hr, hcases⟩ <;> rw [he] at h
    · injection h with h
      exact .inl ⟨hr, h.symm⟩
    · exact .inr (.inl ⟨req, hp, hr, hv, hq, h⟩)
    · injection h with h
      exact .inr (.inr (.inl ⟨op, hp, hr, ho, hs, h.symm⟩))
    · injection h with h
      exact .inr (.inr (.inr (.inl ⟨hp, hr, hv, hl, h.symm⟩)))
    · injection h with h
      exact .inr (.inr (.inr (.inr ⟨hr, h.symm, hcases⟩)))

/-- A run one step at a time. -/
theorem core_run_next {n : Nat} {s t : State} (h : step s = .next t) :
    Sys2Proof.core.run (n + 1) s = Sys2Proof.core.run n t := by
  have general : ∀ (M : Host.Core) (a b : M.State), M.step a = .next b → M.run (n + 1) a = M.run n b := by
    intro M a b hab
    rw [Host.Core.run]
    simp [hab]
  exact general Sys2Proof.core s t h

end Sys2Proof.Machine
end

