-- ==== Sys2Proof/Laws/WellFormed.lean ====
section
/-! SUPPORT. What a well-formed construction says of its pins (R10). -/

namespace Sys2Proof

theorem Params.wf_iff (p : Params) :
    p.wf = true ↔ p.rs ≠ pinNone ∧ p.e ≠ pinNone ∧ pinNone ∉ p.dataPins ∧ p.busPins.Nodup ∧
      p.timing.settleDefault ≠ 0 := by
  unfold Params.wf Params.requiredPinsPresent Params.pinsDistinct Timing.settleDefaultLegal
  simp only [Bool.and_eq_true, decide_eq_true_eq, and_assoc]

/-- RW is a pin of the bus exactly when it is present. -/
theorem Params.mem_rwPins {p : Params} {pin : PinId} : pin ∈ p.rwPins ↔ p.rw ≠ pinNone ∧ pin = p.rw := by
  unfold Params.rwPins
  split <;> simp_all

theorem Params.mem_busPins {p : Params} {pin : PinId} :
    pin ∈ p.busPins ↔ pin = p.rs ∨ (p.rw ≠ pinNone ∧ pin = p.rw) ∨ pin = p.e ∨ pin ∈ p.dataPins := by
  unfold Params.busPins
  simp [Params.mem_rwPins]

/-- An absent pin is no bus pin of a well-formed block. -/
theorem Params.pinNone_not_mem_busPins {p : Params} (h : p.wf = true) : pinNone ∉ p.busPins := by
  obtain ⟨hrs, he, hd, -, -⟩ := p.wf_iff.1 h
  rw [Params.mem_busPins]
  rintro (h | ⟨h, h'⟩ | h | h)
  · exact hrs h.symm
  · exact h h'.symm
  · exact he h.symm
  · exact hd h

/-- The pins of a well-formed block that must differ do. -/
theorem Params.wf_pins {p : Params} (h : p.wf = true) :
    p.rs ≠ p.e ∧ p.rs ∉ p.dataPins ∧ p.e ∉ p.dataPins ∧ p.dataPins.Nodup ∧
    ∀ rw ∈ p.rwPins, rw ≠ p.rs ∧ rw ≠ p.e ∧ rw ∉ p.dataPins := by
  obtain ⟨-, -, -, hn, -⟩ := p.wf_iff.1 h
  unfold Params.busPins at hn
  simp only [List.cons_append, List.nodup_cons, List.mem_append, List.mem_cons, not_or, List.nodup_append] at hn
  obtain ⟨⟨h1, h2, h3⟩, -, ⟨h4, h5⟩, h6⟩ := hn
  refine ⟨h2, h3, h4, h5, fun rw hrw => ⟨?_, h6 rw hrw p.e (.inl rfl), fun hm => h6 rw hrw rw (.inr hm) rfl⟩⟩
  rintro rfl
  exact h1 hrw

theorem Params.dataPins_length (p : Params) : p.dataPins.length = p.width := by
  unfold Params.dataPins Params.width
  simp only [List.length_take, Vector.length_toList]
  split <;> rfl

/-- RW, present or not, is none of the other bus pins. -/
theorem Params.rw_ne {p : Params} (h : p.wf = true) : p.rs ≠ p.rw ∧ p.e ≠ p.rw ∧ p.rw ∉ p.dataPins := by
  obtain ⟨-, -, -, -, hrw⟩ := Params.wf_pins h
  have hn := Params.pinNone_not_mem_busPins h
  by_cases hr : p.rw = pinNone
  · rw [hr]
    refine ⟨fun e => hn (e ▸ ?_), fun e => hn (e ▸ ?_), fun e => hn ?_⟩ <;> rw [Params.mem_busPins] <;> simp [e]
  · obtain ⟨h1, h2, h3⟩ := hrw p.rw (Params.mem_rwPins.2 ⟨hr, rfl⟩)
    exact ⟨h1.symm, h2.symm, h3⟩

end Sys2Proof
end

