-- ==== Sys2Proof/Laws/Transport.lean ====
section
/-! SUPPORT. What the transport primitives do to the bus: the monitor over appended sequences, over a delay, over the data
writes and over a pulse; and the legality of the operations. -/

namespace Sys2Proof.Safety

open Sys2Proof.Machine

@[simp] theorem drive_same (lv : Levels) (pin : PinId) (l : Bool) : drive lv pin l pin = l := by simp [drive]

theorem drive_of_ne (lv : Levels) {pin q : PinId} (l : Bool) (h : q ≠ pin) : drive lv pin l q = lv q := by
  simp [drive, h]

theorem levelsAfter_append (lv : Levels) (xs ys : List PinOp) :
    levelsAfter lv (xs ++ ys) = levelsAfter (levelsAfter lv xs) ys := by
  induction xs generalizing lv with
  | nil => rfl
  | cons op ops ih => cases op <;> simp [levelsAfter, ih]

/-- The monitor reads a concatenation part by part. -/
theorem busEvents_append (p : Params) (lv : Levels) (xs ys : List PinOp) :
    busEvents p lv (xs ++ ys) = busEvents p lv xs ++ busEvents p (levelsAfter lv xs) ys := by
  induction xs generalizing lv with
  | nil => rfl
  | cons op ops ih =>
    cases op <;> simp only [List.cons_append, busEvents, levelsAfter, ih]
    · split <;> simp
    · split <;> simp

@[simp] theorem levelsAfter_delay (lv : Levels) (n : Micros) : levelsAfter lv (delay n) = lv := by
  unfold delay
  split <;> rfl

/-- A delay shows as a wait exactly while E is low. -/
theorem busEvents_delay (p : Params) (lv : Levels) (n : Micros) :
    busEvents p lv (delay n) = if lv p.e then [] else waitEvents n.toNat := by
  unfold delay waitEvents
  by_cases h : n = 0
  · simp [h, busEvents]
  · have : n.toNat ≠ 0 := by
      intro h0
      exact h (BitVec.eq_of_toNat_eq (by simpa using h0))
    rw [if_neg h, if_neg this]
    simp [busEvents]

/-- Writes to pins other than E show nothing. -/
theorem busEvents_writes (p : Params) (lv : Levels) (ws : List (PinId × Bool)) (h : ∀ w ∈ ws, w.1 ≠ p.e) :
    busEvents p lv (ws.map fun w => PinOp.write w.1 w.2) = [] := by
  induction ws generalizing lv with
  | nil => rfl
  | cons w ws ih =>
    have hw : w.1 ≠ p.e := h w (by simp)
    have := ih (drive lv w.1 w.2) (fun x hx => h x (by simp [hx]))
    simp [busEvents, hw, this]

/-- Writes leave every pin they do not name as it was. -/
theorem levelsAfter_writes_of_not_mem (lv : Levels) (ws : List (PinId × Bool)) {q : PinId}
    (h : ∀ w ∈ ws, w.1 ≠ q) : levelsAfter lv (ws.map fun w => PinOp.write w.1 w.2) q = lv q := by
  induction ws generalizing lv with
  | nil => rfl
  | cons w ws ih =>
    have hw : q ≠ w.1 := fun e => h w (by simp) e.symm
    simp only [List.map_cons, levelsAfter]
    rw [ih _ fun x hx => h x (by simp [hx]), drive_of_ne _ _ hw]

/-- A pulse from E low: one sample of the bus, then the settle delay (R105). -/
theorem busEvents_pulse (p : Params) (settle : BitVec 16) (lv : Levels) (hrs : p.rs ≠ p.e)
    (hd : p.e ∉ p.dataPins) :
    busEvents p lv (pulse p settle) = .latch (lv p.rs) (dataValue p lv) :: waitEvents settle.toNat := by
  have hdata : dataValue p (drive lv p.e true) = dataValue p lv := by
    unfold dataValue
    generalize p.dataPins = ds at hd
    induction ds with
    | nil => rfl
    | cons d ds ih =>
      simp only [List.mem_cons, not_or] at hd
      simp only [List.foldr_cons]
      rw [ih hd.2, drive_of_ne _ _ (Ne.symm hd.1)]
  unfold pulse
  simp only [List.append_assoc, List.cons_append, List.nil_append, busEvents, busEvents_append, levelsAfter_delay,
    busEvents_delay, drive_same]
  have hs : settle.toNat % 4294967296 = settle.toNat := Nat.mod_eq_of_lt (by have := settle.isLt; omega)
  simp [hdata, drive_of_ne _ _ hrs, hs]

/-- A pulse leaves every pin but E as it was, and E low (R105). -/
theorem levelsAfter_pulse (p : Params) (settle : BitVec 16) (lv : Levels) :
    levelsAfter lv (pulse p settle) = drive (drive lv p.e true) p.e false := by
  unfold pulse
  simp [levelsAfter, levelsAfter_append]

/-- After the data writes, each pin in turn holds its bit. -/
theorem map_levelsAfter_zipIdx (ds : List PinId) (hn : ds.Nodup) (f : Nat → Bool) (k : Nat) (lv : Levels) :
    ds.map (levelsAfter lv ((ds.zipIdx k).map fun (pin, i) => PinOp.write pin (f i))) =
      (List.range' k ds.length).map f := by
  induction ds generalizing k lv with
  | nil => rfl
  | cons d ds ih =>
    obtain ⟨hd, hn⟩ := List.nodup_cons.1 hn
    have hrest : levelsAfter (drive lv d (f k)) ((ds.zipIdx (k + 1)).map fun (pin, i) => PinOp.write pin (f i)) d =
        f k := by
      have := levelsAfter_writes_of_not_mem (drive lv d (f k)) ((ds.zipIdx (k + 1)).map fun x => (x.1, f x.2))
        (q := d) (by
          simp only [List.mem_map, forall_exists_index, and_imp]
          rintro w x hx rfl rfl
          exact hd (by simpa using List.fst_mem_of_mem_zipIdx hx))
      rw [List.map_map] at this
      simpa [Function.comp_def] using this
    simp only [List.zipIdx_cons, List.map_cons, levelsAfter, List.length_cons, List.range'_succ, ih hn, hrest]

/-- The data pins read as one number are their bits, the first lowest (R54). -/
theorem dataValue_eq (p : Params) (lv : Levels) :
    dataValue p lv =
      (p.dataPins.map lv).foldr (fun b (acc : Byte) => (acc <<< 1) ||| (BitVec.ofBool b).setWidth 8) 0 := by
  simp [dataValue, List.foldr_map]

/-- The data writes of a full-width clock-out put its value on the data pins (R54, R104). -/
theorem dataValue_dataWrites8 {p : Params} (hb : p.bus8 = true) (hn : p.dataPins.Nodup) (x : BitVec 8) (lv : Levels) :
    dataValue p (levelsAfter lv (dataWrites p 8 x)) = x := by
  have hd : p.data.toList.take 8 = p.dataPins := by simp [Params.dataPins, Params.width, hb]
  rw [dataValue_eq, dataWrites, hd, map_levelsAfter_zipIdx _ hn, p.dataPins_length, Params.width, if_pos hb]
  revert x
  decide

/-- The data writes of a nibble put it on the four data pins (R54, R104). -/
theorem dataValue_dataWrites4 {p : Params} (hb : p.bus8 = false) (hn : p.dataPins.Nodup) (x : BitVec 4) (lv : Levels) :
    dataValue p (levelsAfter lv (dataWrites p 4 x)) = x.setWidth 8 := by
  have hd : p.data.toList.take 4 = p.dataPins := by simp [Params.dataPins, Params.width, hb]
  rw [dataValue_eq, dataWrites, hd, map_levelsAfter_zipIdx _ hn, p.dataPins_length, Params.width, if_neg (by simp [hb])]
  revert x
  decide

/-- The data writes of a clock-out, as plain pin writes. -/
theorem dataWrites_eq (p : Params) (w : Nat) (x : BitVec w) :
    dataWrites p w x =
      ((p.data.toList.take w).zipIdx.map fun a => (a.1, x.getLsbD a.2)).map fun a => PinOp.write a.1 a.2 := by
  simp [dataWrites, List.map_map, Function.comp_def]

/-- The data writes name data pins alone. -/
theorem fst_mem_of_dataWrites {p : Params} {w : Nat} {x : BitVec w} {a : PinId × Bool}
    (h : a ∈ (p.data.toList.take w).zipIdx.map fun a => (a.1, x.getLsbD a.2)) : a.1 ∈ p.data.toList.take w := by
  simp only [List.mem_map] at h
  obtain ⟨b, hb, rfl⟩ := h
  exact List.fst_mem_of_mem_zipIdx hb

/-- The data writes show nothing, and leave every pin but the data pins as it was. -/
theorem dataWrites_quiet {p : Params} {w : Nat} (hw : p.data.toList.take w = p.dataPins) (he : p.e ∉ p.dataPins)
    (x : BitVec w) (lv : Levels) :
    busEvents p lv (dataWrites p w x) = [] ∧
    ∀ q, q ∉ p.dataPins → levelsAfter lv (dataWrites p w x) q = lv q := by
  rw [dataWrites_eq]
  constructor
  · refine busEvents_writes p lv _ fun a ha hpe => he ?_
    rw [← hw, ← hpe]
    exact fst_mem_of_dataWrites ha
  · intro q hq
    refine levelsAfter_writes_of_not_mem lv _ fun a ha haq => hq ?_
    rw [← hw, ← haq]
    exact fst_mem_of_dataWrites ha

/-- A whole clock-out from E low, on a well-formed block: one sample of RS and of what the data pins then hold, then the
settle delay; afterwards E is low and every pin but E and the data pins is as it was (R104, R105). -/
theorem clockOut_on_bus {p : Params} (h : p.wf = true) {w : Nat} (hw : p.data.toList.take w = p.dataPins)
    (settle : BitVec 16) (x : BitVec w) (lv : Levels) (hlow : lv p.e = false) :
    busEvents p lv (clockOut p settle w x) =
      .latch (lv p.rs) (dataValue p (levelsAfter lv (dataWrites p w x))) :: waitEvents settle.toNat ∧
    levelsAfter lv (clockOut p settle w x) p.e = false ∧
    ∀ q, q ∉ p.dataPins → levelsAfter lv (clockOut p settle w x) q = lv q := by
  obtain ⟨hrs, hrd, hed, -, -⟩ := Params.wf_pins h
  obtain ⟨hq, hkeep⟩ := dataWrites_quiet hw hed x lv
  unfold clockOut
  rw [busEvents_append, levelsAfter_append, hq, busEvents_pulse _ _ _ hrs hed, levelsAfter_pulse, hkeep _ hrd]
  refine ⟨by simp, drive_same _ _ _, fun q hqd => ?_⟩
  by_cases hqe : q = p.e
  · rw [hqe, drive_same, hlow]
  · rw [drive_of_ne _ _ hqe, drive_of_ne _ _ hqe, hkeep _ hqd]

/-! ### Lengths and times -/

theorem minMicros_append (xs ys : List PinOp) : minMicros (xs ++ ys) = minMicros xs + minMicros ys := by
  induction xs with
  | nil => simp [minMicros]
  | cons op ops ih => cases op <;> simp [minMicros, ih, Nat.add_assoc]

theorem length_dataWrites (p : Params) {w : Nat} (hw : w ≤ 8) (x : BitVec w) : (dataWrites p w x).length = w := by
  simp [dataWrites, hw]

/-- The data writes take no DELAY. -/
theorem minMicros_dataWrites (p : Params) (w : Nat) (x : BitVec w) : minMicros (dataWrites p w x) = 0 := by
  unfold dataWrites
  generalize (p.data.toList.take w).zipIdx = ds
  induction ds with
  | nil => rfl
  | cons d ds ih => simpa [minMicros] using ih

theorem minMicros_delay (n : Micros) : minMicros (delay n) = n.toNat := by
  unfold delay
  by_cases h : n = 0
  · simp [h, minMicros]
  · rw [if_neg h]
    simp [minMicros]

/-! ### Clock-outs as bytes -/

theorem latches_append (es fs : List BusEvent) : latches (es ++ fs) = latches es ++ latches fs := by
  induction es with
  | nil => rfl
  | cons e es ih => cases e <;> simp [latches, ih]

theorem latches_waitEvents (n : Nat) : latches (waitEvents n) = [] := by
  unfold waitEvents
  split <;> rfl

/-- The two nibbles of a byte put together again. -/
theorem nibbles_eq (v : Byte) : ((v.extractLsb' 4 4).setWidth 8 <<< 4) ||| (v.extractLsb' 0 4).setWidth 8 = v := by
  revert v
  decide

end Sys2Proof.Safety
end

