-- ==== Sys2Proof/Tests/Slice0.lean ====
section
/-! SUPPORT. The model's own tests, each one a small computation with its expected result taken from spec/ (the file or rule is
named), and a witness for every statement of Obligations.lean that has hypotheses. -/

namespace Sys2Proof.Tests

open Sys2Proof Sys2Proof.Machine Sys2Proof.Safety

/-! ### Helpers -/

/-- The state of an outcome, when there is one. -/
def stateOf : Host.Outcome State Fault Refusal → Option State
  | .next t => some t
  | .fault _ => none
  | .refused _ => none

/-- The outcome is a state. -/
def isNext : Host.Outcome State Fault Refusal → Bool
  | .next _ => true
  | .fault _ => false
  | .refused _ => false

theorem exists_next {o : Host.Outcome State Fault Refusal} (h : isNext o = true) : ∃ t, o = .next t := by
  cases o with
  | next t => exact ⟨t, rfl⟩
  | fault f => cases h
  | refused r => cases h

theorem exists_next_next {i j : Instr} {s : State}
    (h : ((stateOf (exec i s)).map fun t => isNext (exec j t)) = some true) :
    ∃ t, exec i s = .next t ∧ ∃ u, exec j t = .next u := by
  cases hi : exec i s with
  | next t =>
    rw [hi] at h
    exact ⟨t, rfl, exists_next (Option.some.inj h)⟩
  | fault f =>
    rw [hi] at h
    cases h
  | refused r =>
    rw [hi] at h
    cases h

/-- What an instruction leaves in the registers, emits and answers. -/
def effect (i : Instr) (s : State) : Option (Regs × List PinOp × Response) :=
  (stateOf (exec i s)).map fun t => (t.regs, t.seq, t.resp)

/-- Configuration A after reset (95_test_vectors.md). -/
def resetA : State := State.resetOf Params.configurationA

/-- Configuration B after reset (95_test_vectors.md). -/
def resetB : State := State.resetOf Params.configurationB

/-- Configuration A with these rows configured, its row offsets those of `cols` columns. -/
def geometry (numLines : Byte) (offsets : RowOffsets) : State :=
  { resetA with regs := { resetA.regs with numLines := numLines, rowOff := offsets } }

/-- Configuration A after `BEGIN 16, 2` (95_test_vectors.md section 2.2). -/
def begun16x2 : State :=
  { resetA with
    regs := { resetA.regs with
      func := 0x08, dctrl := 0x04, emode := 0x02, numLines := 2, rowOff := ⟨0x00, 0x40, 0x10, 0x50⟩ } }

/-- Configuration B in the middle of a request, the port and the host ready. -/
def busyB : State :=
  { resetB with
    phase := .busy, seq := [.write 8 true, .delay 5], ustep := 1, resp := Response.oneByte, trace := [.write 8 true]
    inputs := [Inputs.ready] }

/-- Configuration B with its response waiting. -/
def answeringB : State := { busyB with ustep := 2 }

/-- `WRITE 0x41`, presented to configuration A. -/
def askedA : State := { resetA with inputs := [Inputs.request ⟨0x90000041, 0⟩] }

/-- An edge with reset asserted and everything else driven too. -/
def resetEdge : Inputs := ⟨true, true, 0x90000041, 0, true, true, []⟩

/-- An edge at which another agent drives pin 9. -/
def intrudedEdge : Inputs := ⟨false, false, 0, 0, true, true, [9]⟩

/-- E low, and every other pin too. -/
def allLow : Levels := fun _ => false

/-! ### Well-formedness refuses what R10, R11 and R85 call ill-formed -/

theorem test_wf_configurations : Params.configurationA.wf = true ∧ Params.configurationB.wf = true := by decide

theorem test_wf_refuses_absent_rs : ({ Params.configurationA with rs := 0xFF } : Params).wf = false := by decide

theorem test_wf_refuses_absent_e : ({ Params.configurationA with e := 0xFF } : Params).wf = false := by decide

theorem test_wf_refuses_absent_data_pin :
    ({ Params.configurationA with data := #v[5, 0xFF, 3, 2, 0xFF, 0xFF, 0xFF, 0xFF] } : Params).wf = false := by decide

/-- On an 8-bit bus the four upper data pins are in use. -/
theorem test_wf_refuses_absent_upper_data_pin : ({ Params.configurationA with bus8 := true } : Params).wf = false := by
  decide

theorem test_wf_refuses_rw_on_rs : ({ Params.configurationA with rw := 12 } : Params).wf = false := by decide

theorem test_wf_refuses_repeated_data_pin :
    ({ Params.configurationB with data := #v[0, 1, 2, 3, 4, 5, 6, 0] } : Params).wf = false := by decide

theorem test_wf_refuses_settle_default_0 :
    ({ Params.configurationA with timing := { Timing.default with settleDefault := 0 } } : Params).wf = false := by decide

theorem test_instr_wf_refuses_mode_3 : (Instr.configBacklight 9 3).wf = false ∧ (Instr.configBacklight 9 2).wf = true := by
  decide

/-! ### Decoding, each word written out from R73, R74 and R75 -/

/-- `BEGIN 16, 2, 5x10`, E8. -/
theorem test_decode_begin : decodeTableWord 32 0x08010210 = some (.lcdBegin 16 2 true) := by decide

theorem test_decode_clear : decodeTableWord 32 0x10000000 = some .clear := by decide

theorem test_decode_home : decodeTableWord 32 0x18000000 = some .home := by decide

/-- S3. -/
theorem test_decode_setcursor : decodeTableWord 32 0x200001C8 = some (.setCursor 200 1) := by decide

theorem test_decode_display_on : decodeTableWord 32 0x28000000 = some .displayOn := by decide

theorem test_decode_display_off : decodeTableWord 32 0x30000000 = some .displayOff := by decide

theorem test_decode_cursor_on : decodeTableWord 32 0x38000000 = some .cursorOn := by decide

theorem test_decode_cursor_off : decodeTableWord 32 0x40000000 = some .cursorOff := by decide

theorem test_decode_blink_on : decodeTableWord 32 0x48000000 = some .blinkOn := by decide

theorem test_decode_blink_off : decodeTableWord 32 0x50000000 = some .blinkOff := by decide

theorem test_decode_scroll_left : decodeTableWord 32 0x58000000 = some .scrollLeft := by decide

theorem test_decode_scroll_right : decodeTableWord 32 0x60000000 = some .scrollRight := by decide

theorem test_decode_left_to_right : decodeTableWord 32 0x68000000 = some .leftToRight := by decide

theorem test_decode_right_to_left : decodeTableWord 32 0x70000000 = some .rightToLeft := by decide

theorem test_decode_autoscroll_on : decodeTableWord 32 0x78000000 = some .autoscrollOn := by decide

theorem test_decode_autoscroll_off : decodeTableWord 32 0x80000000 = some .autoscrollOff := by decide

/-- X5, the payload above the word. -/
theorem test_decode_create_char :
    decodeTableWord 96 0xFFE000000000000088000002 = some (.createChar 2 ⟨0, 0, 0, 0, 0, 0, 0xE0, 0xFF⟩) := by decide

theorem test_decode_write : decodeTableWord 32 0x90000041 = some (.write 0x41) := by decide

/-- K5, the payload above the word. -/
theorem test_decode_set_row_offsets :
    decodeTableWord 96 0x000000000403020198000000 = some (.setRowOffsets ⟨1, 2, 3, 4⟩) := by decide

/-- K3: `b` is the high byte. -/
theorem test_decode_set_settle_time : decodeTableWord 32 0xA0001234 = some (.setSettleTime 0x1234) := by decide

/-- K9: `b[7:2]` is ignored. -/
theorem test_decode_config_backlight : decodeTableWord 32 0xA8000509 = some (.configBacklight 9 1) := by decide

theorem test_decode_set_backlight : decodeTableWord 32 0xB00000FF = some (.setBacklight 255) := by decide

/-- I1, I2, I3. -/
theorem test_decode_reserved :
    decodeTableWord 32 0x00000000 = none ∧ decodeTableWord 32 0xB8000000 = none ∧
    decodeTableWord 32 0xF8000000 = none := by decide

/-- I7: the reserved bits are ignored. -/
theorem test_decode_ignores_reserved_bits : decodeTableWord 32 0x0FFE0210 = some (.lcdBegin 16 2 false) := by decide

/-! ### Meanings, on the vectors of 95_test_vectors.md -/

/-- T1. -/
theorem test_command_4bit :
    command Params.configurationA 100 0x28 =
      [.write 12 false, .write 5 false, .write 4 true, .write 3 false, .write 2 false,
       .write 11 true, .delay 1, .write 11 false, .delay 100,
       .write 5 false, .write 4 false, .write 3 false, .write 2 true,
       .write 11 true, .delay 1, .write 11 false, .delay 100] := by decide

/-- T3. -/
theorem test_data_8bit :
    data Params.configurationB 100 0x41 =
      [.write 8 true, .write 9 false, .write 0 true, .write 1 false, .write 2 false, .write 3 false, .write 4 false,
       .write 5 false, .write 6 true, .write 7 false, .write 10 true, .delay 1, .write 10 false, .delay 100] := by decide

/-- T7: `delay(0)` emits nothing. -/
theorem test_pulse_without_hold :
    pulse { Params.configurationA with timing := { Timing.default with tEHigh := 0 } } 100 =
      [.write 11 true, .write 11 false, .delay 100] := by decide

/-- Section 2.2: the registers after `BEGIN 208, 1, 5x10` on an 8-bit bus. -/
theorem test_begin_registers :
    (effect (.lcdBegin 208 1 true) resetB).map Prod.fst =
      some ⟨0x14, 0x04, 0x02, ⟨0x00, 0x40, 0xD0, 0x10⟩, 1, 100, 0xFF, 0, 0, 0⟩ := by decide

/-- `nib(x)` of configuration A, the nibble's bits from bit 0 up (95_test_vectors.md, Conventions). -/
def nib (b0 b1 b2 b3 : Bool) : List PinOp :=
  [.write 5 b0, .write 4 b1, .write 3 b2, .write 2 b3, .write 11 true, .delay 1, .write 11 false, .delay 100]

/-- E7: the recovery nibbles with their waits, then the select line and the high nibble of the function set, from operation 9 of
`BEGIN 16, 2`. -/
def recoveryA : List PinOp :=
  nib true true false false ++ [.delay 4500] ++ nib true true false false ++ [.delay 4500] ++
  nib true true false false ++ [.delay 150] ++ nib false true false false ++ [.write 12 false] ++
  nib false true false false

theorem test_begin_recovery :
    (effect (.lcdBegin 16 2 false) resetA).map (fun e => (e.2.1.drop 9).take 44) = some recoveryA := by decide

/-- S12. -/
theorem test_clear :
    effect .clear resetA = some (resetA.regs, command Params.configurationA 100 0x01 ++ [.delay 2000], ⟨0, false⟩) := by
  decide

/-- S13. -/
theorem test_home :
    effect .home resetB = some (resetB.regs, command Params.configurationB 100 0x02 ++ [.delay 2000], ⟨0, false⟩) := by
  decide

/-- S3: the column wraps modulo 256. -/
theorem test_setcursor_wraps :
    effect (.setCursor 200 1) begun16x2 =
      some ({ begun16x2.regs with curRow := 1 }, command Params.configurationA 100 0x88, ⟨0, false⟩) := by decide

/-- S9: six rows configured, the row clamped to 3. -/
theorem test_setcursor_clamps :
    effect (.setCursor 0 5) (geometry 6 ⟨0x00, 0x40, 0x14, 0x54⟩) =
      some ({ (geometry 6 ⟨0x00, 0x40, 0x14, 0x54⟩).regs with curRow := 3 },
        command Params.configurationA 100 0xD4, ⟨0, false⟩) := by decide

/-- A display-control toggle from DCTRL `v` leaves `w` and sends `byte`. -/
def togglesDctrl (i : Instr) (v w byte : Byte) : Bool :=
  let s := { resetA with regs := { resetA.regs with dctrl := v } }
  decide (effect i s = some ({ resetA.regs with dctrl := w }, command Params.configurationA 100 byte, ⟨0, false⟩))

/-- An entry-mode toggle from EMODE `v` leaves `w` and sends `byte`. -/
def togglesEmode (i : Instr) (v w byte : Byte) : Bool :=
  let s := { resetA with regs := { resetA.regs with emode := v } }
  decide (effect i s = some ({ resetA.regs with emode := w }, command Params.configurationA 100 byte, ⟨0, false⟩))

/-- G1. -/
theorem test_display_on : togglesDctrl .displayOn 0x04 0x04 0x0C = true := by decide

/-- G3. -/
theorem test_display_off : togglesDctrl .displayOff 0x07 0x03 0x0B = true := by decide

/-- G4. -/
theorem test_cursor_on : togglesDctrl .cursorOn 0x04 0x06 0x0E = true := by decide

/-- G5. -/
theorem test_cursor_off : togglesDctrl .cursorOff 0x06 0x04 0x0C = true := by decide

/-- G8. -/
theorem test_blink_on : togglesDctrl .blinkOn 0x00 0x01 0x09 = true := by decide

/-- G7. -/
theorem test_blink_off : togglesDctrl .blinkOff 0x07 0x06 0x0E = true := by decide

/-- M5. -/
theorem test_left_to_right : togglesEmode .leftToRight 0x01 0x03 0x07 = true := by decide

/-- M2. -/
theorem test_right_to_left : togglesEmode .rightToLeft 0x02 0x00 0x04 = true := by decide

/-- M3. -/
theorem test_autoscroll_on : togglesEmode .autoscrollOn 0x02 0x03 0x07 = true := by decide

/-- M4. -/
theorem test_autoscroll_off : togglesEmode .autoscrollOff 0x03 0x02 0x06 = true := by decide

/-- Section 2.5. -/
theorem test_scroll_left :
    effect .scrollLeft begun16x2 = some (begun16x2.regs, command Params.configurationA 100 0x18, ⟨0, false⟩) := by decide

/-- Section 2.5. -/
theorem test_scroll_right :
    effect .scrollRight begun16x2 = some (begun16x2.regs, command Params.configurationA 100 0x1C, ⟨0, false⟩) := by decide

/-- X5: the index masked into the address, the rows not masked. -/
theorem test_create_char :
    ((effect (.createChar 0xFF ⟨0, 0, 0, 0, 0, 0, 0xE0, 0xFF⟩) resetB).map fun e => (e.2.1.take 14, e.2.1.drop 98)) =
      some (command Params.configurationB 100 0x78,
        data Params.configurationB 100 0xE0 ++ data Params.configurationB 100 0xFF) := by decide

/-- P5: `WRITE 0x41` before `BEGIN`. -/
theorem test_write :
    effect (.write 0x41) resetA =
      some (resetA.regs,
        [.write 12 true, .write 5 false, .write 4 false, .write 3 true, .write 2 false,
         .write 11 true, .delay 1, .write 11 false, .delay 100,
         .write 5 true, .write 4 false, .write 3 false, .write 2 false,
         .write 11 true, .delay 1, .write 11 false, .delay 100], ⟨1, false⟩) := by decide

/-- K5. -/
theorem test_set_row_offsets :
    effect (.setRowOffsets ⟨1, 2, 3, 4⟩) resetA = some ({ resetA.regs with rowOff := ⟨1, 2, 3, 4⟩ }, [], ⟨0, false⟩) := by
  decide

/-- K1, K4. -/
theorem test_set_settle_time :
    effect (.setSettleTime 0) resetA = some ({ resetA.regs with settle := 1 }, [], ⟨0, false⟩) ∧
    effect (.setSettleTime 65535) resetA = some ({ resetA.regs with settle := 65535 }, [], ⟨0, false⟩) := by decide

/-- K6, K7. -/
theorem test_config_backlight :
    effect (.configBacklight 9 0) resetA =
      some ({ resetA.regs with blPin := 9, blMode := 0 }, [.config 9 .output], ⟨0, false⟩) ∧
    effect (.configBacklight 0xFF 2) resetA =
      some ({ resetA.regs with blPin := 0xFF, blMode := 2 }, [], ⟨0, false⟩) := by decide

/-- K8. -/
theorem test_config_backlight_mode_3 : effect (.configBacklight 9 3) resetA = some (resetA.regs, [], ⟨0, true⟩) := by decide

/-- Section 2.7: the backlight on pin 9 in this mode, at this level, emits these operations. -/
def backlight (mode : BitVec 2) (level : Byte) : Option (List PinOp) :=
  (effect (.setBacklight level) { resetA with regs := { resetA.regs with blPin := 9, blMode := mode } }).map (·.2.1)

theorem test_set_backlight_digital :
    backlight 0 0 = some [.write 9 false] ∧ backlight 0 128 = some [.write 9 true] ∧
    backlight 1 0 = some [.write 9 true] ∧ backlight 1 1 = some [.write 9 false] := by decide

theorem test_set_backlight_pwm : backlight 2 0 = some [.duty 9 0] ∧ backlight 2 128 = some [.duty 9 128] := by decide

/-! ### Steps -/

/-- I2: a reserved opcode, presented at an edge. -/
theorem test_step_reserved :
    (stateOf (step (resetA.withFetchWord 32 0xB8000000))).map (fun t => (t.regs, t.seq, t.resp, t.phase)) =
      some (resetA.regs, [], ⟨0, true⟩, .busy) := by decide

/-- `withFetchWord` has the next step run the instruction. -/
theorem test_step_fetch :
    (stateOf (step (State.reset.withFetchWord 32 0x90000041))).map (fun t => (t.cur, t.seq.length, t.resp)) =
      some (⟨0x90000041, 0⟩, 17, ⟨1, false⟩) := by decide

/-- Z2, Z3: reset in the middle of a request, on configuration B. -/
theorem test_step_reset :
    (stateOf (step { busyB with inputs := [resetEdge] })).map (fun t => (t.regs, t.phase, t.trace, t.responses)) =
      some (⟨0x10, 0x00, 0x00, ⟨0x00, 0x40, 0x10, 0x50⟩, 1, 100, 0xFF, 0, 0, 0⟩, .idle, [.write 8 true], []) := by decide

/-- Configuration B on a platform that guarantees PORT_SETUP_OK. -/
def setupB : State := State.resetOf { Params.configurationB with portSetupOk := true }

/-- R206-R210: the default timing respects the controller's figures; a settle time of 36, or no PORT_SETUP_OK, does not. -/
theorem test_timing :
    timingMeetsController setupB.params 100 = true ∧ timingMeetsController setupB.params 36 = false ∧
    timingMeetsController Params.configurationB 100 = false := by decide

/-- R210: the rise of E comes straight after the last data write, so the setup is the port's. -/
theorem test_setup :
    setupTimesMet setupB.params false (data setupB.params 100 0x41) = true ∧
    setupTimesMet Params.configurationB true (data Params.configurationB 100 0x41) = false := by decide

/-! ### The assembler (R89, R90) -/

/-- The lines of P4. -/
theorem test_assemble_begin : assembleLine "BEGIN 16, 1, 5x10   ; FUNC = 0x04" = .ok [.lcdBegin 16 1 true] := by decide

theorem test_assemble_backlight : assembleLine "CONFIG_BACKLIGHT 0x09, PWM" = .ok [.configBacklight 9 2] := by decide

theorem test_assemble_character : assembleLine "WRITE 'A'" = .ok [.write 0x41] := by decide

theorem test_assemble_print : assembleLine "PRINT \"Hi\"" = .ok [.write 0x48, .write 0x69] := by decide

theorem test_assemble_pseudos :
    assembleLine "CURSOR_HOME_FAST" = .ok [.setCursor 0 0] ∧ assembleLine "BACKLIGHT_ON" = .ok [.setBacklight 1] ∧
    assembleLine "BACKLIGHT_OFF" = .ok [.setBacklight 0] := by decide

theorem test_assemble_rejects :
    assembleLine "SET_SETTLE_TIME 65536" = .error .badOperands ∧ assembleLine "SHIFT 1" = .error .unknownMnemonic := by
  decide

/-! ### Witnesses: the hypotheses of the statements can be met -/

theorem busyB_regs : RegsInv busyB.params busyB.regs where
  func := by decide
  font := by decide
  dctrl := by decide
  emode := by decide
  settle := by decide
  blMode := by decide
  blPin := by decide
  curRow := by decide

theorem begun16x2_regs : RegsInv begun16x2.params begun16x2.regs where
  func := by decide
  font := by decide
  dctrl := by decide
  emode := by decide
  settle := by decide
  blMode := by decide
  blPin := by decide
  curRow := by decide

/-- The clauses of R84, each on a word of section 2.8. -/
theorem witness_IgnoredBitsChangeNothing :
    (Request.op ⟨0x10010000, 0⟩ ≠ 0x01 ∧ Request.op ⟨0x28000001, 0⟩ ∉ ([0x01, 0x04, 0x11, 0x12, 0x14, 0x15, 0x16] : List (BitVec 5))) ∧
    Request.op ⟨0x88000009, 0⟩ ∉ ([0x01, 0x04, 0x14, 0x15] : List (BitVec 5)) ∧ Request.op ⟨0xA8000509, 0⟩ = 0x15 ∧
    (Request.op ⟨0x98000000, 0⟩ ≠ 0x11 ∧ Request.op ⟨0x90000041, 0⟩ ∉ ([0x11, 0x13] : List (BitVec 5))) := by decide

theorem witness_ReservedOpcodesAreFlaggedNoOps :
    resetA.params.wf = true ∧ (Request.op ⟨0x00000000, 0⟩).toNat = 0x00 ∧ 0x17 ≤ (Request.op ⟨0xB8000000, 0⟩).toNat ∧
    (Request.op ⟨0x08000000, 0⟩).toNat ≠ 0x00 ∧ (Request.op ⟨0xB0000000, 0⟩).toNat < 0x17 := by decide

theorem witness_TransmitEmitsThesePinOperations :
    Params.configurationB.bus8 = true ∧ Params.configurationA.bus8 = false := by decide

theorem witness_TransmitClocksOutTheByte :
    Params.configurationA.wf = true ∧ allLow Params.configurationA.e = false ∧
    Params.configurationB.wf = true ∧ allLow Params.configurationB.e = false ∧ Params.configurationB.rw ≠ pinNone := by
  decide

theorem witness_TransmitOperationCount : Params.configurationA.timing.tEHigh ≠ 0 ∧ (1 : BitVec 16) ≠ 0 := by decide

theorem witness_BeginWritesItsRegisters : resetB.params.wf = true := by decide

theorem witness_BeginRunsTheInitializationSequence :
    resetB.params.wf = true ∧ allLow resetB.params.rs = false ∧ allLow resetB.params.e = false := by decide

theorem witness_BeginOperationCount :
    resetB.params.timing = Timing.default ∧ resetB.regs.settle ≠ 0 ∧ ∃ t, exec (.lcdBegin 20 4 false) resetB = .next t :=
  ⟨by decide, by decide, exists_next (by decide)⟩

theorem witness_ClearAndHomeSendTheirByteAndWait : begun16x2.params.wf = true ∧ allLow begun16x2.params.e = false := by
  decide

theorem witness_SetCursorAddressesTheClampedRow :
    (geometry 6 ⟨0x00, 0x40, 0x14, 0x54⟩).params.wf = true ∧ allLow (geometry 0 ⟨0, 0, 0, 0⟩).params.e = false := by decide

/-- Each clause at a boundary of its range. -/
theorem witness_RowsBeyondTheGeometryAreTheLastRow :
    (1 ≤ (geometry 1 resetRowOffsets).regs.numLines.toNat ∧ (geometry 1 resetRowOffsets).regs.numLines.toNat ≤ 4 ∧
      (geometry 1 resetRowOffsets).regs.numLines.toNat ≤ (1 : Byte).toNat) ∧
    ((geometry 4 resetRowOffsets).regs.numLines.toNat ≤ 4 ∧
      (geometry 4 resetRowOffsets).regs.numLines.toNat ≤ (4 : Byte).toNat) ∧
    (4 < (geometry 5 resetRowOffsets).regs.numLines.toNat ∧ 3 ≤ (3 : Byte).toNat) ∧
    (geometry 0 resetRowOffsets).regs.numLines = 0 := by decide

theorem witness_DisplayTogglesWriteOneFieldAndResend : begun16x2.params.wf = true ∧ allLow begun16x2.params.e = false := by
  decide

theorem witness_EntryTogglesWriteOneFieldAndResend : begun16x2.params.wf = true ∧ allLow begun16x2.params.e = false := by
  decide

theorem witness_ToggleRunsSendEveryRegisterInFull :
    begun16x2.params.wf = true ∧ RegsInv begun16x2.params begun16x2.regs ∧ allLow begun16x2.params.e = false :=
  ⟨by decide, begun16x2_regs, by decide⟩

/-- Section 2.4: cursor and blink, in both orders. -/
theorem witness_TogglesOfDifferentFieldsCommute :
    Toggle.cursorOn.field ≠ Toggle.blinkOn.field ∧
    (∃ t1, exec Toggle.cursorOn.instr begun16x2 = .next t1 ∧ ∃ t2, exec Toggle.blinkOn.instr t1 = .next t2) ∧
    (∃ u1, exec Toggle.blinkOn.instr begun16x2 = .next u1 ∧ ∃ u2, exec Toggle.cursorOn.instr u1 = .next u2) :=
  ⟨by decide, exists_next_next (by decide), exists_next_next (by decide)⟩

theorem witness_ScrollSendsAConstantByte : begun16x2.params.wf = true ∧ allLow begun16x2.params.e = false := by decide

theorem witness_CreateCharSendsTheGlyph : resetB.params.wf = true ∧ allLow resetB.params.e = false := by decide

theorem witness_WriteSendsTheByteAndCountsOne : resetA.params.wf = true ∧ allLow resetA.params.e = false := by decide

theorem witness_PrintWritesEveryByte : resetA.params.wf = true ∧ allLow resetA.params.e = false := by decide

theorem witness_ConfigurationRequestsStoreAndEmitNothing : resetB.params.wf = true := by decide

/-- Mode 3; a bus pin with mode 2; a free pin. -/
theorem witness_ConfigBacklightStoresPinAndMode :
    resetA.params.wf = true ∧ (2 : BitVec 2) ≠ 3 ∧ (12 : PinId) ∈ resetA.params.busPins ∧
    (9 : PinId) ∉ resetA.params.busPins := by decide

/-- No pin; each of the three modes with a pin. -/
theorem witness_SetBacklightDrivesThePinByMode :
    (resetA.params.wf = true ∧ resetA.regs.blPin = 0xFF) ∧
    (∀ m : BitVec 2, m ≠ 3 →
      ({ resetA with regs := { resetA.regs with blPin := 9, blMode := m } } : State).regs.blPin ≠ 0xFF ∧
      ({ resetA with regs := { resetA.regs with blPin := 9, blMode := m } } : State).regs.blMode = m) := by decide

theorem witness_BacklightAndDisplayAreIndependent :
    RegsInv begun16x2.params begun16x2.regs ∧ (∃ t, exec (.setBacklight 1) begun16x2 = .next t) ∧
    (∃ t, exec (.write 1) begun16x2 = .next t) :=
  ⟨begun16x2_regs, exists_next (by decide), exists_next (by decide)⟩

/-- A reserved opcode, a reserved mode, `WRITE`, and another request. -/
theorem witness_ResponsesTellWriteAndReserved :
    (∃ t, acceptRequest ⟨0xB8000000, 0⟩ resetA = .next t) ∧ (∃ t, acceptRequest ⟨0xA8000309, 0⟩ resetA = .next t) ∧
    (∃ t, acceptRequest ⟨0x90000041, 0⟩ resetA = .next t) ∧ (∃ t, acceptRequest ⟨0xA8000209, 0⟩ resetA = .next t) :=
  ⟨exists_next (by decide), exists_next (by decide), exists_next (by decide), exists_next (by decide)⟩

theorem witness_PinOperationsHaveTheFormOfTheTable :
    RegsInv busyB.params busyB.regs ∧ ∃ t, exec (.lcdBegin 20 4 false) busyB = .next t :=
  ⟨busyB_regs, exists_next (by decide)⟩

theorem witness_OnlyTheCommandFormsAreSent :
    RegsInv busyB.params busyB.regs ∧ allLow busyB.params.e = false ∧
    (∃ t, exec (.lcdBegin 20 4 false) busyB = .next t) ∧ busyB.params.bus8 = true :=
  ⟨busyB_regs, by decide, exists_next (by decide), by decide⟩

theorem witness_BusLinesChangeOnlyWhileELow :
    RegsInv busyB.params busyB.regs ∧ ∃ t, exec (.createChar 0 ⟨1, 2, 3, 4, 5, 6, 7, 8⟩) busyB = .next t :=
  ⟨busyB_regs, exists_next (by decide)⟩

theorem setupB_regs : RegsInv setupB.params setupB.regs where
  func := by decide
  font := by decide
  dctrl := by decide
  emode := by decide
  settle := by decide
  blMode := by decide
  blPin := by decide
  curRow := by decide

theorem witness_ControllerTimingRestsOnItsPremises :
    (timingMeetsController setupB.params setupB.regs.settle = true ∧ RegsInv setupB.params setupB.regs ∧
      (∃ t, exec .clear setupB = .next t) ∧ allLow setupB.params.e = false) ∧
    Params.configurationA.wf = true ∧ Params.configurationA.portSetupOk = false :=
  ⟨⟨by decide, setupB_regs, exists_next (by decide), by decide⟩, by decide, by decide⟩

theorem witness_MinimumTimesOfRequests :
    resetB.params.timing = Timing.default ∧ resetB.regs.settle = 100 ∧ ∃ t, exec .home resetB = .next t :=
  ⟨by decide, by decide, exists_next (by decide)⟩

theorem witness_CursorRowIsNotObservable : ∃ t, exec (.setCursor 3 1) begun16x2 = .next t := exists_next (by decide)

/-- An instruction, and a reserved opcode. -/
theorem witness_StepRunsThePresentedRequest :
    (askedA.params.wf = true ∧ askedA.contested = false ∧ askedA.phase = .idle ∧ askedA.edge.rst = false ∧
      askedA.edge.reqValid = true ∧ askedA.edge.reqWord = 0x90000041) ∧
    (decode ⟨0x90000041, 0⟩ = .ok (.write 0x41) ∧ decode ⟨0, 0⟩ = .error (.reservedOpcode 0)) := by decide

/-- The last operation, and the response. -/
theorem witness_BusyHandshakesAdvanceByOne :
    (busyB.params.wf = true ∧ busyB.contested = false ∧ busyB.phase = .busy ∧ busyB.edge.rst = false) ∧
    (busyB.seq[busyB.ustep]? = some (.delay 5) ∧ busyB.edge.poReady = true) ∧
    (answeringB.params.wf = true ∧ answeringB.contested = false ∧ answeringB.phase = .busy ∧ answeringB.edge.rst = false ∧
      answeringB.ustep = answeringB.seq.length ∧ answeringB.edge.respReady = true) := by decide

/-- One quiet edge, below len(SEQ) and at it. -/
theorem witness_AStuckBlockHolds :
    (∀ s ∈ [busyB, answeringB], s.params.wf = true ∧ s.phase = .busy) ∧
    busyB.ustep < busyB.seq.length ∧ ¬answeringB.ustep < answeringB.seq.length ∧
    Inputs.quiet.rst = false ∧ Inputs.quiet.otherDrives = [] ∧ Inputs.quiet.poReady = false ∧
    Inputs.quiet.respReady = false := by decide

theorem witness_ResetWinsAndRestoresTheRegisters :
    ({ busyB with inputs := [resetEdge] } : State).params.wf = true ∧
    ({ busyB with inputs := [resetEdge] } : State).contested = false ∧
    ({ busyB with inputs := [resetEdge] } : State).edge.rst = true := by decide

theorem witness_OutputsFollowTheSequencer :
    (askedA.edge.rst = false ∧ askedA.phase = .idle) ∧
    (busyB.edge.rst = false ∧ busyB.phase = .busy ∧ busyB.ustep < busyB.seq.length) ∧
    (answeringB.edge.rst = false ∧ answeringB.phase = .busy ∧ answeringB.ustep = answeringB.seq.length) := by decide

/-- A request taken up; an operation performed; an idle edge without a request. -/
theorem witness_EveryEdgeRefinesTheBigStep :
    ((∃ t, step askedA = .next t) ∧ askedA.edge.rst = false ∧ askedA.phase = .idle ∧ askedA.edge.reqValid = true) ∧
    ((∃ t, step busyB = .next t) ∧ busyB.edge.rst = false ∧ busyB.phase = .busy) ∧
    ((∃ t, step resetA = .next t) ∧ resetA.edge.rst = false ∧ resetA.edge.reqValid = false) :=
  ⟨⟨exists_next (by decide), by decide, by decide, by decide⟩, ⟨exists_next (by decide), by decide, by decide⟩,
    ⟨exists_next (by decide), by decide, by decide⟩⟩

/-- `SET_SETTLE_TIME 40`: one edge to accept, none for operations, one for the response. -/
theorem witness_AcceptedRequestsComplete :
    ∃ t, acceptRequest ⟨0xA0000028, 0⟩ { resetA with inputs := [Inputs.request ⟨0xA0000028, 0⟩, Inputs.ready] } = .next t ∧
      resetA.phase = .idle ∧
      ({ resetA with inputs := [Inputs.request ⟨0xA0000028, 0⟩, Inputs.ready] } : State).inputs =
        Inputs.request ⟨0xA0000028, 0⟩ :: List.replicate (t.seq.length + 1) Inputs.ready ++ [] := by
  obtain ⟨t, ht⟩ := exists_next (o := acceptRequest ⟨0xA0000028, 0⟩
    { resetA with inputs := [Inputs.request ⟨0xA0000028, 0⟩, Inputs.ready] }) (by decide)
  refine ⟨t, ht, rfl, ?_⟩
  have : (stateOf (acceptRequest ⟨0xA0000028, 0⟩
    { resetA with inputs := [Inputs.request ⟨0xA0000028, 0⟩, Inputs.ready] })).map (·.seq) = some [] := by decide
  rw [ht] at this
  have hseq : t.seq = [] := Option.some.inj this
  rw [hseq]
  rfl

theorem witness_StepsOnlyExtendWhatWasObserved :
    (∃ t, step busyB = .next t) ∧ (∃ t, step answeringB = .next t) ∧ ∃ t, step askedA = .next t :=
  ⟨exists_next (by decide), exists_next (by decide), exists_next (by decide)⟩

theorem witness_IllFormedConstructionsAreRefused :
    ({ resetA with params := { Params.configurationA with rs := 0xFF } } : State).params.wf = false := by decide

/-- A bus pin (9 is RW of configuration B), and the backlight pin (9 on configuration A). -/
theorem witness_ContestedPinsAreRefused :
    ((9 : PinId) ∈ ({ resetB with inputs := [intrudedEdge] } : State).edge.otherDrives ∧
      (9 : PinId) ∈ resetB.params.busPins ∧ resetB.params.wf = true) ∧
    ((9 : PinId) = ({ resetA with regs := { resetA.regs with blPin := 9 }, inputs := [intrudedEdge] } : State).regs.blPin ∧
      (9 : PinId) ≠ 0xFF ∧ resetA.params.wf = true) := by decide

/-- A step that answers, and one that is refused because the backlight pin asked for is RS. -/
theorem witness_EveryRequestIsServedInEveryState :
    (askedA.params.wf = true ∧ askedA.contested = false ∧
      ∀ pin mode, decode ⟨askedA.edge.reqWord, askedA.edge.reqPayload⟩ = .ok (.configBacklight pin mode) →
        mode = 3 ∨ pin ∉ askedA.params.busPins) ∧
    step (resetA.withFetchWord 32 0xA800000C) = .refused .backlightPinOnBus := by
  refine ⟨⟨by decide, by decide, fun pin mode h => ?_⟩, ?_⟩
  · rw [show decode ⟨askedA.edge.reqWord, askedA.edge.reqPayload⟩ = .ok (.write 0x41) by decide] at h
    cases h
  · rfl

/-- The parameters that R10 allows. -/
theorem witness_InvariantHoldsAfterReset : Params.configurationB.wf = true := by decide

/-- A state in the middle of a request, and its step. -/
theorem witness_EveryStepKeepsTheInvariant : Inv busyB ∧ ∃ t, step busyB = .next t := by
  refine ⟨⟨by decide, busyB_regs, by decide, ?_, ?_, .inr (.inl rfl)⟩, exists_next (by decide)⟩ <;>
  · intro op h
    simp only [busyB, List.mem_cons, List.not_mem_nil, or_false] at h
    rcases h with rfl | rfl <;> simp [LegalOp, pinNone, busyB, resetB, State.resetOf, Params.configurationB]

/-- `BEGIN 16, 2`, a clear, and a reserved opcode. -/
theorem witness_ShadowRegistersAreWhatWasLastSent :
    RegsInv begun16x2.params begun16x2.regs ∧ allLow begun16x2.params.e = false ∧
    ∃ u, serveAll [encode (.lcdBegin 16 2 false), ⟨0x10000000, 0⟩, ⟨0xB8000000, 0⟩] begun16x2 = .next u :=
  ⟨begun16x2_regs, by decide, exists_next (by decide)⟩

end Sys2Proof.Tests
end

section
/-! Proofs of the statements of 00_scope.md: a step extends only what was observed (O40), and an ill-formed construction is
refused (O41). -/

namespace Sys2Proof

/-- R10's second point, pin by pin: RW is compared with the others only when it is present. -/
theorem Params.busPins_nodup_iff (p : Params) :
    p.busPins.Nodup ↔ p.rs ≠ p.e ∧ p.rs ∉ p.dataPins ∧ p.e ∉ p.dataPins ∧ p.dataPins.Nodup ∧
      (p.rw ≠ pinNone → p.rw ≠ p.rs ∧ p.rw ≠ p.e ∧ p.rw ∉ p.dataPins) := by
  by_cases hrw : p.rw = pinNone
  · simp only [busPins, rwPins, if_pos hrw, List.cons_append, List.nil_append, List.nodup_cons, List.mem_cons]
    tauto
  · simp only [busPins, rwPins, if_neg hrw, List.cons_append, List.nil_append, List.nodup_cons, List.mem_cons]
    tauto

/-- The points of R10 and the bound of R11, over the data pins in use. -/
theorem Params.wf_iff_pins (p : Params) :
    p.wf = true ↔
      p.rs ≠ pinNone ∧ p.e ≠ pinNone ∧ (∀ pin ∈ p.dataPins, pin ≠ pinNone) ∧
      p.rs ≠ p.e ∧ p.rs ∉ p.dataPins ∧ p.e ∉ p.dataPins ∧ p.dataPins.Nodup ∧
      (p.rw ≠ pinNone → p.rw ≠ p.rs ∧ p.rw ≠ p.e ∧ p.rw ∉ p.dataPins) ∧
      1 ≤ p.timing.settleDefault.toNat := by
  have hpresent : pinNone ∉ p.dataPins ↔ ∀ pin ∈ p.dataPins, pin ≠ pinNone :=
    ⟨fun h pin hpin heq => h (heq ▸ hpin), fun h hmem => h pinNone hmem rfl⟩
  have hsettle : p.timing.settleDefault ≠ 0 ↔ 1 ≤ p.timing.settleDefault.toNat := by bv_omega
  rw [p.wf_iff, p.busPins_nodup_iff, hpresent, hsettle]
  simp only [and_assoc]

namespace Machine

/-! ### What an ill-formed construction answers (R10, R182) -/

theorem State.accept_illFormed {s : State} (h : s.params.wf = false) (regs : Regs) (seq : List PinOp)
    (resp : Response) : s.accept regs seq resp = .refused .illFormedConfiguration := by
  simp [State.accept, h]

theorem State.edgeRefusal_illFormed {s : State} (h : s.params.wf = false) :
    s.edgeRefusal = some .illFormedConfiguration := if_pos h

theorem step_illFormed {s : State} (h : s.params.wf = false) : step s = .refused .illFormedConfiguration := by
  simp [step, State.edgeRefusal_illFormed h]

/-- Every meaning ends in `accept`; the refusal of a backlight pin on the bus asks for a well-formed block first. -/
theorem exec_illFormed {s : State} (h : s.params.wf = false) (i : Instr) :
    exec i s = .refused .illFormedConfiguration := by
  cases i with
  | configBacklight pin mode =>
    simp [exec, execConfigBacklight, State.acceptReserved, State.accept_illFormed h, h]
  | _ => exact State.accept_illFormed h _ _ _

/-! ### What an acceptance leaves unchanged (R22) -/

theorem acceptRequest_keeps {req : Request} {s t : State} (h : acceptRequest req s = .next t) :
    t.params = s.params ∧ t.trace = s.trace ∧ t.responses = s.responses := by
  rw [acceptRequest_frame h]
  exact ⟨rfl, rfl, rfl⟩

end Machine

open Machine

/-- Settles O40, by the five cases of a step: the handshake of an operation extends the trace, that of a response the
responses, and reset, acceptance and a hold neither. -/
theorem stepsOnlyExtendWhatWasObserved : Obligations.StepsOnlyExtendWhatWasObserved := by
  intro s t h
  obtain ⟨-, -, ⟨-, rfl⟩ | ⟨req, -, -, -, -, hacc⟩ | ⟨op, hbusy, -, -, hop, rfl⟩ | ⟨hbusy, -, -, hend, rfl⟩ |
    ⟨-, rfl, -⟩⟩ := step_cases h
  · exact ⟨rfl, .inl ⟨rfl, rfl⟩⟩
  · obtain ⟨hparams, hkept⟩ := acceptRequest_keeps hacc
    exact ⟨hparams, .inl hkept⟩
  · exact ⟨rfl, .inr (.inl ⟨op, hop, hbusy, rfl, rfl⟩)⟩
  · exact ⟨rfl, .inr (.inr ⟨hbusy, hend, rfl, rfl, rfl⟩)⟩
  · exact ⟨rfl, .inl ⟨rfl, rfl⟩⟩

/-- Settles O41: the statement's list of pins in use is `dataPins`, and no step and no meaning passes an ill-formed
construction. -/
theorem illFormedConstructionsAreRefused : Obligations.IllFormedConstructionsAreRefused :=
  ⟨Params.wf_iff_pins, fun _ h => ⟨step_illFormed h, exec_illFormed h⟩⟩

end Sys2Proof
end

section
/-! Proofs of statements of 10_state.md: the handshakes of one edge (O33, O34), and CUR_ROW, which nothing but itself reads
(O32). -/

namespace Sys2Proof

namespace Machine

/-! ### The handshake of an edge, from what the edge samples (R22, R76, R78, R79) -/

theorem State.presentedOp_of_busy {s : State} (hp : s.phase = .busy) (hr : s.edge.rst = false) :
    s.presentedOp = s.seq[s.ustep]? := if_pos ⟨hp, hr⟩

theorem State.presentedResponse_of_busy {s : State} (hp : s.phase = .busy) (hr : s.edge.rst = false)
    (hend : s.seq.length ≤ s.ustep) : s.presentedResponse = some s.resp := if_pos ⟨hp, hr, hend⟩

theorem State.edgeEvent_of_idle {s : State} (hp : s.phase = .idle) (hr : s.edge.rst = false) :
    s.edgeEvent = if s.edge.reqValid then .accept ⟨s.edge.reqWord, s.edge.reqPayload⟩ else .hold := by
  simp [State.edgeEvent, State.reqReady, hp, hr]

theorem State.edgeEvent_of_op {s : State} {op : PinOp} (hp : s.phase = .busy) (hr : s.edge.rst = false)
    (hop : s.seq[s.ustep]? = some op) : s.edgeEvent = if s.edge.poReady then .perform op else .hold := by
  simp [State.edgeEvent, State.reqReady, State.presentedOp_of_busy hp hr, hp, hr, hop]

theorem State.edgeEvent_of_end {s : State} (hp : s.phase = .busy) (hr : s.edge.rst = false)
    (hend : s.seq.length ≤ s.ustep) : s.edgeEvent = if s.edge.respReady then .deliver s.resp else .hold := by
  simp [State.edgeEvent, State.reqReady, State.presentedOp_of_busy hp hr, State.presentedResponse_of_busy hp hr hend,
    hp, hr, hend]

theorem acceptRequest_of_ok {req : Request} {i : Instr} (hd : decode req = .ok i) (s : State) :
    acceptRequest req s = exec i (s.latch req) := by
  simp [acceptRequest, hd]

theorem acceptRequest_of_error {req : Request} {e : DecodeError} (hd : decode req = .error e) (s : State) :
    acceptRequest req s = (s.latch req).acceptReserved := by
  simp [acceptRequest, hd]

theorem step_of_accept {s : State} {req : Request} (hw : s.params.wf = true) (hc : s.contested = false)
    (hev : s.edgeEvent = .accept req) : step s = acceptRequest req s.popEdge := by
  simp [step, State.edgeRefusal_eq_none.2 ⟨hw, hc⟩, hev]

theorem step_of_perform {s : State} {op : PinOp} (hw : s.params.wf = true) (hc : s.contested = false)
    (hev : s.edgeEvent = .perform op) : step s = .next (s.popEdge.perform op) := by
  simp [step, State.edgeRefusal_eq_none.2 ⟨hw, hc⟩, hev]

theorem step_of_deliver {s : State} {resp : Response} (hw : s.params.wf = true) (hc : s.contested = false)
    (hev : s.edgeEvent = .deliver resp) : step s = .next (s.popEdge.deliver resp) := by
  simp [step, State.edgeRefusal_eq_none.2 ⟨hw, hc⟩, hev]

end Machine

open Machine Safety

/-- Settles O33: the edge's event is the acceptance of the request presented, and that is a match on what it decodes to. -/
theorem stepRunsThePresentedRequest : Obligations.StepRunsThePresentedRequest := by
  intro s hw hc hp hr hv
  have hstep : step s = acceptRequest ⟨s.edge.reqWord, s.edge.reqPayload⟩ s.popEdge :=
    step_of_accept hw hc ((State.edgeEvent_of_idle hp hr).trans (if_pos hv))
  refine ⟨fun i hd => ?_, fun e hd => ?_⟩
  · rw [hstep, acceptRequest_of_ok hd]
    rfl
  · rw [hstep, acceptRequest_of_error hd]
    rfl

/-- Settles O34: below len(SEQ) the edge's event is that of SEQ[USTEP], at len(SEQ) that of RESP. -/
theorem busyHandshakesAdvanceByOne : Obligations.BusyHandshakesAdvanceByOne := by
  intro s op hw hc hp hr
  refine ⟨fun hop hready => ⟨?_, ?_⟩, fun hend hready => ⟨?_, ?_⟩⟩
  · exact congrArg (Option.map PinOp.lines) ((State.presentedOp_of_busy hp hr).trans hop)
  · exact step_of_perform hw hc ((State.edgeEvent_of_op hp hr hop).trans (if_pos hready))
  · exact State.presentedResponse_of_busy hp hr hend.ge
  · exact step_of_deliver hw hc ((State.edgeEvent_of_end hp hr hend.ge).trans (if_pos hready))

namespace Machine

/-! ### What `CONFIG_BACKLIGHT` accepts (R85, R170) -/

theorem execConfigBacklight_of_reserved {pin : PinId} {mode : BitVec 2} (hm : mode = 3) (s : State) :
    execConfigBacklight pin mode s = s.acceptReserved := if_pos hm

theorem execConfigBacklight_of_free_pin {pin : PinId} {mode : BitVec 2} {s : State} (hm : mode ≠ 3)
    (hpin : pin ∉ s.params.busPins) :
    execConfigBacklight pin mode s =
      s.accept ((s.regs.writeBlPin pin).writeBlMode mode) (configBacklightSequence pin) Response.done := by
  rw [execConfigBacklight, if_neg hm, if_neg fun h => hpin h.2]

/-- Everything `CONFIG_BACKLIGHT` can do when it answers a state. -/
theorem execConfigBacklight_next {pin : PinId} {mode : BitVec 2} {s t : State}
    (h : execConfigBacklight pin mode s = .next t) :
    (mode = 3 ∧ s.acceptReserved = .next t) ∨
    (mode ≠ 3 ∧ pin ∉ s.params.busPins ∧
      s.accept ((s.regs.writeBlPin pin).writeBlMode mode) (configBacklightSequence pin) Response.done = .next t) := by
  unfold execConfigBacklight at h
  split at h
  · next hm => exact .inl ⟨hm, h⟩
  · next hm =>
    split at h
    · cases h
    · next hpin => exact .inr ⟨hm, fun hmem => hpin ⟨(State.accept_next h).1, hmem⟩, h⟩

/-! ### CUR_ROW (R32) -/

/-- A meaning `x` that accepts, on a state that differs in CUR_ROW alone, the same sequence and response and registers that differ
in CUR_ROW alone. -/
theorem State.accept_writeCurRow {s t : State} {regs regs' : Regs} {seq : List PinOp} {resp : Response} {c : BitVec 2}
    {x : Host.Outcome State Fault Refusal} (h : s.accept regs seq resp = .next t)
    (hx : x = State.accept { s with regs := s.regs.writeCurRow c } regs' seq resp)
    (hregs : regs'.writeCurRow 0 = regs.writeCurRow 0) :
    ∃ u, x = .next u ∧ u.seq = t.seq ∧ u.resp = t.resp ∧ u.regs.writeCurRow 0 = t.regs.writeCurRow 0 := by
  obtain ⟨hw, rfl⟩ := State.accept_next h
  exact ⟨_, hx.trans (State.accept_eq _ hw _ _ _), rfl, rfl, hregs⟩

end Machine

/-- Settles O32: every meaning accepts registers, a sequence and a response that read no CUR_ROW. -/
theorem cursorRowIsNotObservable : Obligations.CursorRowIsNotObservable := by
  intro i s t c h
  cases i with
  | configBacklight pin mode =>
    obtain ⟨hm, h⟩ | ⟨hm, hpin, h⟩ := execConfigBacklight_next h
    · exact State.accept_writeCurRow h (execConfigBacklight_of_reserved hm _) rfl
    · exact State.accept_writeCurRow h (execConfigBacklight_of_free_pin hm hpin) rfl
  | _ => exact State.accept_writeCurRow h rfl rfl

end Sys2Proof
end

section
/-! Proof of the statement of 10_state.md on the invariant (O45): the invariant of the registers write by write, the legality of the
operations primitive by primitive, and then both for every instruction. -/

namespace Sys2Proof

open Machine Safety

theorem Params.take_eight_of_bus8 {p : Params} (h : p.bus8 = true) : p.data.toList.take 8 = p.dataPins := by
  simp [Params.dataPins, Params.width, h]

theorem Params.take_four_of_bus4 {p : Params} (h : p.bus8 = false) : p.data.toList.take 4 = p.dataPins := by
  simp [Params.dataPins, Params.width, h]

namespace Safety

/-! ### The registers' invariant, write by write -/

section
variable {p : Params} {r : Regs}

theorem RegsInv.writeDctrl (h : RegsInv p r) (v : Byte) : RegsInv p (r.writeDctrl v) :=
  { h with dctrl := writeDctrl_unused r v }

theorem RegsInv.writeEmode (h : RegsInv p r) (v : Byte) : RegsInv p (r.writeEmode v) :=
  { h with emode := writeEmode_unused r v }

theorem RegsInv.writeRowOff (h : RegsInv p r) (t : RowOffsets) : RegsInv p (r.writeRowOff t) := { h with }

theorem RegsInv.writeBlLevel (h : RegsInv p r) (v : Byte) : RegsInv p (r.writeBlLevel v) := { h with }

theorem RegsInv.writeSettle_clampSettle (h : RegsInv p r) (us : BitVec 16) :
    RegsInv p (r.writeSettle (clampSettle us)) :=
  { h with settle := clampSettle_ne_zero us }

theorem RegsInv.writeCurRow (h : RegsInv p r) {c : BitVec 2} (hc : c.toNat < usableLines r.numLines) :
    RegsInv p (r.writeCurRow c) :=
  { h with curRow := hc }

theorem RegsInv.writeBlPin_writeBlMode (h : RegsInv p r) {pin : PinId} {mode : BitVec 2} (hpin : pin ∉ p.busPins)
    (hmode : mode ≠ 3) : RegsInv p ((r.writeBlPin pin).writeBlMode mode) :=
  { h with blPin := hpin, blMode := hmode }

/-- `BEGIN` asks for the large font on one line only (R115). -/
theorem writeFunc_functionFlags_font (r : Regs) (bus8 : Bool) (rows : Byte) (font5x10 : Bool) :
    ¬((r.writeFunc bus8 (functionFlags bus8 rows font5x10)).func.getLsbD 3 = true ∧
      (r.writeFunc bus8 (functionFlags bus8 rows font5x10)).func.getLsbD 2 = true) := by
  simp only [Regs.writeFunc_func, functionFlags]
  generalize decide (rows.toNat > 1) = twoLines
  revert bus8 twoLines font5x10
  decide

theorem RegsInv.beginRegs (h : RegsInv p r) (cols rows : Byte) (font5x10 : Bool) :
    RegsInv p (beginRegs p r cols rows font5x10) :=
  { h with
    func := writeFunc_unused r p.bus8 _
    font := writeFunc_functionFlags_font r p.bus8 rows font5x10
    dctrl := writeDctrl_unused r _
    emode := writeEmode_unused r _
    curRow := usableLines_pos rows }

theorem regsInv_resetOf (h : p.wf = true) : RegsInv p (Regs.resetOf p) where
  func := by cases hb : p.bus8 <;> simp [Regs.resetOf, hb]
  font := by cases hb : p.bus8 <;> simp [Regs.resetOf, hb]
  dctrl := by simp [Regs.resetOf]
  emode := by simp [Regs.resetOf]
  settle := (p.wf_iff.1 h).2.2.2.2
  blMode := by simp [Regs.resetOf]
  blPin := Params.pinNone_not_mem_busPins h
  curRow := usableLines_pos 1

end

/-- Every accepted instruction leaves registers that have the invariant. -/
theorem exec_regsInv {i : Instr} {s t : State} (hr : RegsInv s.params s.regs) (h : exec i s = .next t) :
    RegsInv s.params t.regs := by
  cases i with
  | lcdBegin cols rows font =>
    rw [(State.accept_next h).2]
    exact hr.beginRegs cols rows font
  | clear | home =>
    rw [(State.accept_next h).2]
    exact hr.writeCurRow (usableLines_pos _)
  | setCursor col row =>
    rw [(State.accept_next h).2]
    exact hr.writeCurRow (clampRow_lt _ row)
  | displayOn | displayOff | cursorOn | cursorOff | blinkOn | blinkOff =>
    rw [(State.accept_next h).2]
    exact hr.writeDctrl _
  | leftToRight | rightToLeft | autoscrollOn | autoscrollOff =>
    rw [(State.accept_next h).2]
    exact hr.writeEmode _
  | scrollLeft | scrollRight | createChar | write =>
    rw [(State.accept_next h).2]
    exact hr
  | setRowOffsets offsets =>
    rw [(State.accept_next h).2]
    exact hr.writeRowOff offsets
  | setSettleTime us =>
    rw [(State.accept_next h).2]
    exact hr.writeSettle_clampSettle us
  | configBacklight pin mode =>
    obtain ⟨-, h⟩ | ⟨hm, hpin, h⟩ := execConfigBacklight_next h <;> rw [(State.accept_next h).2]
    · exact hr
    · exact hr.writeBlPin_writeBlMode hpin hm
  | setBacklight level =>
    rw [(State.accept_next h).2]
    exact hr.writeBlLevel level

theorem acceptRequest_regsInv {req : Request} {s t : State} (hr : RegsInv s.params s.regs)
    (h : acceptRequest req s = .next t) : RegsInv s.params t.regs := by
  obtain ⟨i, -, h⟩ | ⟨e, -, hregs, -⟩ := acceptRequest_cases h
  · exact exec_regsInv (s := s.latch req) hr h
  · rwa [hregs]

/-! ### The legality of the operations (R77, R87, R106) -/

theorem legalOp_delay (p : Params) (n : Micros) : ∀ op ∈ delay n, LegalOp p op := by
  unfold delay
  split
  · simp
  · next hn => simpa [LegalOp] using hn

section
variable {p : Params} (hwf : p.wf = true)
include hwf

theorem legalOp_config {pin : PinId} (hpin : pin ∈ p.busPins) : LegalOp p (.config pin .output) :=
  ⟨fun he => Params.pinNone_not_mem_busPins hwf (he ▸ hpin), rfl⟩

theorem legalOp_write_low {pin : PinId} (hpin : pin ∈ p.busPins) : LegalOp p (.write pin false) :=
  ⟨fun he => Params.pinNone_not_mem_busPins hwf (he ▸ hpin), fun _ => rfl⟩

theorem legalOp_write {pin : PinId} (hpin : pin ∈ p.busPins) (hrw : pin ≠ p.rw) (level : Bool) :
    LegalOp p (.write pin level) :=
  ⟨fun he => Params.pinNone_not_mem_busPins hwf (he ▸ hpin), fun he => absurd he hrw⟩

theorem legalOp_pulse (settle : BitVec 16) : ∀ op ∈ pulse p settle, LegalOp p op := by
  have he : p.e ∈ p.busPins := Params.mem_busPins.2 (by simp)
  simp only [pulse, List.forall_mem_append, List.forall_mem_singleton]
  exact ⟨⟨⟨legalOp_write hwf he (Params.rw_ne hwf).2.1 true, legalOp_delay p _⟩, legalOp_write_low hwf he⟩,
    legalOp_delay p _⟩

/-- Data pins are never RW, so the data writes may be high. -/
theorem legalOp_clockOut {w : Nat} (hw : p.data.toList.take w = p.dataPins) (settle : BitVec 16) (x : BitVec w) :
    ∀ op ∈ clockOut p settle w x, LegalOp p op := by
  refine List.forall_mem_append.2 ⟨?_, legalOp_pulse hwf settle⟩
  rw [dataWrites_eq, List.forall_mem_map]
  intro a ha
  have hdata : a.1 ∈ p.dataPins := hw ▸ fst_mem_of_dataWrites ha
  exact legalOp_write hwf (Params.mem_busPins.2 (by simp [hdata]))
    (fun he => (Params.rw_ne hwf).2.2 (he ▸ hdata)) a.2

theorem legalOp_rwLow : ∀ op ∈ p.rwPins.map fun rw => PinOp.write rw false, LegalOp p op := by
  rw [List.forall_mem_map]
  intro rw hrw
  exact legalOp_write_low hwf (Params.mem_busPins.2 (.inr (.inl (Params.mem_rwPins.1 hrw))))

theorem legalOp_transmit (settle : BitVec 16) (v : Byte) (rs : Bool) :
    ∀ op ∈ transmit p settle v rs, LegalOp p op := by
  have hselect : ∀ op ∈ selectLines p rs, LegalOp p op :=
    List.forall_mem_cons.2
      ⟨legalOp_write hwf (Params.mem_busPins.2 (by simp)) (Params.rw_ne hwf).1 rs, legalOp_rwLow hwf⟩
  refine List.forall_mem_append.2 ⟨hselect, ?_⟩
  cases hb : p.bus8
  · have hw : p.data.toList.take 4 = p.dataPins := Params.take_four_of_bus4 hb
    exact List.forall_mem_append.2 ⟨legalOp_clockOut hwf hw settle _, legalOp_clockOut hwf hw settle _⟩
  · exact legalOp_clockOut hwf (Params.take_eight_of_bus8 hb) settle v

theorem legalOp_powerUpLevels : ∀ op ∈ powerUpLevels p, LegalOp p op := by
  simp only [powerUpLevels, List.forall_mem_append, List.forall_mem_cons]
  exact ⟨⟨legalOp_delay p _, legalOp_write_low hwf (Params.mem_busPins.2 (by simp)),
    legalOp_write_low hwf (Params.mem_busPins.2 (by simp)), by simp⟩, legalOp_rwLow hwf⟩

theorem legalOp_recovery4 (hb : p.bus8 = false) (settle : BitVec 16) : ∀ op ∈ recovery4 p settle, LegalOp p op := by
  have hnibble : ∀ x : Nibble, ∀ op ∈ clockOut p settle 4 x, LegalOp p op :=
    legalOp_clockOut hwf (Params.take_four_of_bus4 hb) settle
  simp only [recovery4, List.forall_mem_append, and_assoc]
  exact ⟨hnibble _, legalOp_delay p _, hnibble _, legalOp_delay p _, hnibble _, legalOp_delay p _, hnibble _⟩

theorem legalOp_recovery8 (r : Regs) : ∀ op ∈ recovery8 p r, LegalOp p op := by
  have hcmd := legalOp_transmit hwf r.settle (functionSetByte r) false
  simp only [recovery8, List.forall_mem_append, and_assoc]
  exact ⟨hcmd, legalOp_delay p _, hcmd, legalOp_delay p _, hcmd, legalOp_delay p _⟩

theorem legalOp_clearSequence (settle : BitVec 16) : ∀ op ∈ clearSequence p settle, LegalOp p op :=
  List.forall_mem_append.2 ⟨legalOp_transmit hwf settle _ _, legalOp_delay p _⟩

theorem legalOp_beginSequence (r : Regs) : ∀ op ∈ beginSequence p r, LegalOp p op := by
  have hconfig : ∀ op ∈ configurePins p, LegalOp p op :=
    List.forall_mem_map.2 fun _ hpin => legalOp_config hwf hpin
  have hrecovery : ∀ op ∈ if p.bus8 then recovery8 p r else recovery4 p r.settle, LegalOp p op := by
    split
    · exact legalOp_recovery8 hwf r
    · next hb => exact legalOp_recovery4 hwf (by simpa using hb) r.settle
  have hcmd := fun v => legalOp_transmit hwf r.settle v false
  simp only [beginSequence, List.forall_mem_append, and_assoc]
  exact ⟨hconfig, legalOp_powerUpLevels hwf, hrecovery, hcmd _, hcmd _, legalOp_clearSequence hwf _, hcmd _⟩

end

/-- With the pin off the bus, or absent, no drive of the backlight is a drive of RW. -/
theorem legalOp_setBacklightSequence {p : Params} {r : Regs} (hpin : r.blPin ∉ p.busPins) (level : Byte) :
    ∀ op ∈ setBacklightSequence r level, LegalOp p op := by
  unfold setBacklightSequence
  split
  · simp
  · next hpresent =>
    have hrw : r.blPin ≠ p.rw := fun he =>
      hpin (Params.mem_busPins.2 (.inr (.inl ⟨he ▸ hpresent, he⟩)))
    have hwrite : ∀ l, LegalOp p (.write r.blPin l) := fun l => ⟨hpresent, fun he => absurd he hrw⟩
    split
    · exact List.forall_mem_singleton.2 (hwrite _)
    · split
      · exact List.forall_mem_singleton.2 (hwrite _)
      · exact List.forall_mem_singleton.2 hpresent

theorem legalOp_configBacklightSequence (p : Params) (pin : PinId) :
    ∀ op ∈ configBacklightSequence pin, LegalOp p op := by
  unfold configBacklightSequence
  split
  · simp
  · next hpresent => exact List.forall_mem_singleton.2 ⟨hpresent, rfl⟩

/-- Every operation of an accepted instruction is legal. -/
theorem exec_legalOp {i : Instr} {s t : State} (hr : RegsInv s.params s.regs) (h : exec i s = .next t) :
    ∀ op ∈ t.seq, LegalOp s.params op := by
  obtain ⟨_, _, _, hacc⟩ := exec_accepts h
  obtain ⟨hwf, -⟩ := State.accept_next hacc
  cases i with
  | lcdBegin cols rows font =>
    rw [(State.accept_next h).2]
    exact legalOp_beginSequence hwf _
  | clear =>
    rw [(State.accept_next h).2]
    exact legalOp_clearSequence hwf _
  | home =>
    rw [(State.accept_next h).2]
    exact List.forall_mem_append.2 ⟨legalOp_transmit hwf _ _ _, legalOp_delay _ _⟩
  | setCursor | displayOn | displayOff | cursorOn | cursorOff | blinkOn | blinkOff | scrollLeft | scrollRight
  | leftToRight | rightToLeft | autoscrollOn | autoscrollOff | write =>
    rw [(State.accept_next h).2]
    exact legalOp_transmit hwf _ _ _
  | createChar index pattern =>
    rw [(State.accept_next h).2]
    refine List.forall_mem_append.2 ⟨legalOp_transmit hwf _ _ _, fun op hop => ?_⟩
    obtain ⟨v, -, hop⟩ := List.mem_flatMap.1 hop
    exact legalOp_transmit hwf _ v true op hop
  | setRowOffsets | setSettleTime =>
    rw [(State.accept_next h).2]
    exact List.forall_mem_nil _
  | configBacklight pin mode =>
    obtain ⟨-, h⟩ | ⟨-, -, h⟩ := execConfigBacklight_next h <;> rw [(State.accept_next h).2]
    · exact List.forall_mem_nil _
    · exact legalOp_configBacklightSequence _ pin
  | setBacklight level =>
    rw [(State.accept_next h).2]
    exact legalOp_setBacklightSequence hr.blPin level

/-! ### The invariant of the state -/

theorem inv_popEdge {s : State} (h : Inv s) : Inv s.popEdge := { h with }

theorem inv_applyReset {s : State} (h : Inv s) : Inv s.applyReset where
  wf := h.wf
  regs := regsInv_resetOf h.wf
  ustep := Nat.le_refl 0
  seq := List.forall_mem_nil _
  trace := h.trace
  resp := .inl rfl

theorem inv_acceptRequest {req : Request} {s t : State} (hs : Inv s) (h : acceptRequest req s = .next t) : Inv t := by
  have hregs := acceptRequest_regsInv hs.regs h
  obtain ⟨hseq, hresp⟩ : (∀ op ∈ t.seq, LegalOp s.params op) ∧
      (t.resp = Response.done ∨ t.resp = Response.oneByte ∨ t.resp = Response.reserved) := by
    obtain ⟨i, -, hi⟩ | ⟨e, -, -, hseq, hresp⟩ := acceptRequest_cases h
    · exact ⟨exec_legalOp (s := s.latch req) hs.regs hi, exec_resp hi⟩
    · exact ⟨hseq ▸ List.forall_mem_nil _, .inr (.inr hresp)⟩
  rw [acceptRequest_frame h]
  exact { wf := hs.wf, regs := hregs, ustep := Nat.zero_le _, seq := hseq, trace := hs.trace, resp := hresp }

theorem inv_perform {s : State} {op : PinOp} (h : Inv s) (hop : s.seq[s.ustep]? = some op) : Inv (s.perform op) := by
  obtain ⟨hlt, -⟩ := List.getElem?_eq_some_iff.1 hop
  exact { h with
    ustep := hlt
    trace := List.forall_mem_append.2 ⟨h.trace, List.forall_mem_singleton.2 (h.seq op (List.mem_of_getElem? hop))⟩ }

theorem inv_deliver {s : State} (h : Inv s) (resp : Response) : Inv (s.deliver resp) := { h with }

end Safety

/-- Settles O45, by the cases of a step: reset restores the invariant, an acceptance keeps it by the registers and the sequence of
the request's rule, and an operation performed is one of SEQ. -/
theorem everyStepKeepsTheInvariant : Obligations.EveryStepKeepsTheInvariant := by
  intro s t hs h
  obtain ⟨-, -, ⟨-, rfl⟩ | ⟨req, -, -, -, -, hacc⟩ | ⟨op, -, -, -, hop, rfl⟩ | ⟨-, -, -, -, rfl⟩ | ⟨-, rfl, -⟩⟩ :=
    step_cases h
  · exact inv_applyReset (inv_popEdge hs)
  · exact inv_acceptRequest (inv_popEdge hs) hacc
  · exact inv_perform (inv_popEdge hs) hop
  · exact inv_deliver (inv_popEdge hs) s.resp
  · exact inv_popEdge hs

end Sys2Proof
end

section
/-! Proof of the statement of 10_state.md on the shadow registers (O46): what a sequence clocks out, as bytes; the bytes of every
instruction; and what they say of FUNC, DCTRL and EMODE before and after. -/

namespace Sys2Proof

open Machine Safety

namespace Safety

/-! ### A transmit on the bus (R54, R101-R104) -/

/-- Driving RW low shows nothing, and leaves every other pin as it was. -/
theorem rwLow_on_bus {p : Params} (hwf : p.wf = true) (lv : Levels) :
    busEvents p lv (p.rwPins.map fun rw => .write rw false) = [] ∧
    ∀ q, q ∉ p.rwPins → levelsAfter lv (p.rwPins.map fun rw => .write rw false) q = lv q := by
  obtain ⟨-, -, -, -, hrw⟩ := Params.wf_pins hwf
  have hwrites : (p.rwPins.map fun rw => PinOp.write rw false) =
      (p.rwPins.map fun rw => (rw, false)).map fun a => .write a.1 a.2 := by
    simp [Function.comp_def]
  rw [hwrites]
  exact ⟨busEvents_writes p lv _ (List.forall_mem_map.2 fun rw hm => (hrw rw hm).2.1),
    fun q hq => levelsAfter_writes_of_not_mem lv _ (List.forall_mem_map.2 fun rw hm he => hq (he ▸ hm))⟩

theorem rs_e_not_mem_rwPins {p : Params} (hwf : p.wf = true) : p.rs ∉ p.rwPins ∧ p.e ∉ p.rwPins := by
  obtain ⟨-, -, -, -, hrw⟩ := Params.wf_pins hwf
  exact ⟨fun hm => (hrw _ hm).1 rfl, fun hm => (hrw _ hm).2.1 rfl⟩

/-- The select step shows nothing, sets RS and keeps E. -/
theorem selectLines_on_bus {p : Params} (hwf : p.wf = true) (rs : Bool) (lv : Levels) :
    busEvents p lv (selectLines p rs) = [] ∧ levelsAfter lv (selectLines p rs) p.rs = rs ∧
    levelsAfter lv (selectLines p rs) p.e = lv p.e := by
  obtain ⟨hrs, -, -, -, -⟩ := Params.wf_pins hwf
  obtain ⟨hrsRw, heRw⟩ := rs_e_not_mem_rwPins hwf
  obtain ⟨hquiet, hkeep⟩ := rwLow_on_bus hwf (drive lv p.rs rs)
  refine ⟨?_, ?_, ?_⟩
  · simp [selectLines, busEvents, hrs, hquiet]
  · exact (hkeep _ hrsRw).trans (drive_same _ _ _)
  · exact (hkeep _ heRw).trans (drive_of_ne _ _ hrs.symm)

/-- A nibble's clock-out on a 4-bit bus. -/
theorem nibble_on_bus {p : Params} (hwf : p.wf = true) (hb : p.bus8 = false) (settle : BitVec 16) (x : Nibble) (lv : Levels)
    (hlow : lv p.e = false) :
    busEvents p lv (clockOut p settle 4 x) = nibbleEvents settle (lv p.rs) x ∧
    ∀ q, q ∉ p.dataPins → levelsAfter lv (clockOut p settle 4 x) q = lv q := by
  obtain ⟨-, -, -, hnodup, -⟩ := Params.wf_pins hwf
  obtain ⟨hev, -, hkeep⟩ := clockOut_on_bus hwf (Params.take_four_of_bus4 hb) settle x lv hlow
  rw [dataValue_dataWrites4 hb hnodup] at hev
  exact ⟨hev, hkeep⟩

/-- A byte's clock-out on an 8-bit bus. -/
theorem byte_on_bus {p : Params} (hwf : p.wf = true) (hb : p.bus8 = true) (settle : BitVec 16) (v : Byte) (lv : Levels)
    (hlow : lv p.e = false) :
    busEvents p lv (clockOut p settle 8 v) = .latch (lv p.rs) v :: waitEvents settle.toNat ∧
    ∀ q, q ∉ p.dataPins → levelsAfter lv (clockOut p settle 8 v) q = lv q := by
  obtain ⟨-, -, -, hnodup, -⟩ := Params.wf_pins hwf
  obtain ⟨hev, -, hkeep⟩ := clockOut_on_bus hwf (Params.take_eight_of_bus8 hb) settle v lv hlow
  rw [dataValue_dataWrites8 hb hnodup] at hev
  exact ⟨hev, hkeep⟩

/-- From E low, a transmit has the bus sample the byte with its RS; every pin but the data pins is left as by the select step. -/
theorem transmit_on_bus {p : Params} (hwf : p.wf = true) (settle : BitVec 16) (v : Byte) (rs : Bool) (lv : Levels)
    (hlow : lv p.e = false) :
    busEvents p lv (transmit p settle v rs) = byteEvents p settle rs v ∧
    ∀ q, q ∉ p.dataPins → levelsAfter lv (transmit p settle v rs) q = levelsAfter lv (selectLines p rs) q := by
  obtain ⟨-, hrsData, heData, -, -⟩ := Params.wf_pins hwf
  obtain ⟨hquiet, hrs, he⟩ := selectLines_on_bus hwf rs lv
  have hlow' := he.trans hlow
  rw [transmit, busEvents_append, levelsAfter_append, hquiet, List.nil_append, byteEvents]
  cases hb : p.bus8
  · obtain ⟨hev, hkeep⟩ := nibble_on_bus hwf hb settle (v.extractLsb' 4 4) _ hlow'
    obtain ⟨hev', hkeep'⟩ := nibble_on_bus hwf hb settle (v.extractLsb' 0 4) _ ((hkeep _ heData).trans hlow')
    simp only [Bool.false_eq_true, if_false]
    rw [busEvents_append, levelsAfter_append, hev, hev', hkeep _ hrsData, hrs]
    exact ⟨rfl, fun q hq => (hkeep' q hq).trans (hkeep q hq)⟩
  · obtain ⟨hev, hkeep⟩ := byte_on_bus hwf hb settle v _ hlow'
    simp only [if_true]
    rw [hev, hrs]
    exact ⟨rfl, hkeep⟩

/-! ### What a sequence has the bus sample, part by part -/

/-- From levels with `P`, these operations have the bus sampled as listed, and leave levels with `Q`. -/
def Samples (p : Params) (P Q : Levels → Prop) (ops : List PinOp) (ls : List (Bool × Byte)) : Prop :=
  ∀ lv, P lv → latches (busEvents p lv ops) = ls ∧ Q (levelsAfter lv ops)

/-- E low. -/
def ELow (p : Params) (lv : Levels) : Prop := lv p.e = false

/-- E and RS low: the levels under which the recovery nibbles are sent (R118, R119). -/
def ERsLow (p : Params) (lv : Levels) : Prop := lv p.e = false ∧ lv p.rs = false

theorem Samples.append {p : Params} {P Q R : Levels → Prop} {xs ys : List PinOp} {ls ms : List (Bool × Byte)}
    (hx : Samples p P Q xs ls) (hy : Samples p Q R ys ms) : Samples p P R (xs ++ ys) (ls ++ ms) := by
  intro lv hlv
  obtain ⟨hls, hmid⟩ := hx lv hlv
  obtain ⟨hms, hend⟩ := hy _ hmid
  rw [busEvents_append, latches_append, levelsAfter_append, hls, hms]
  exact ⟨rfl, hend⟩

theorem samples_nil (p : Params) (P : Levels → Prop) : Samples p P P [] [] := fun _ h => ⟨rfl, h⟩

theorem samples_delay (p : Params) (P : Levels → Prop) (n : Micros) : Samples p P P (delay n) [] := by
  intro lv hlv
  rw [busEvents_delay, levelsAfter_delay]
  refine ⟨?_, hlv⟩
  split
  · rfl
  · exact latches_waitEvents _

theorem samples_config (p : Params) (P : Levels → Prop) (pins : List PinId) :
    Samples p P P (pins.map fun pin => .config pin .output) [] := by
  induction pins with
  | nil => exact samples_nil p P
  | cons pin pins ih => exact ih

/-- The samples that a byte takes: one, or two nibbles with the high one first (R54, R100). -/
def byteSamples (p : Params) (b : Bool × Byte) : List (Bool × Byte) :=
  if p.bus8 then [b] else [(b.1, (b.2.extractLsb' 4 4).setWidth 8), (b.1, (b.2.extractLsb' 0 4).setWidth 8)]

theorem latches_byteEvents (p : Params) (settle : BitVec 16) (rs : Bool) (v : Byte) :
    latches (byteEvents p settle rs v) = byteSamples p (rs, v) := by
  unfold byteEvents byteSamples
  split <;> simp [nibbleEvents, latches, latches_append, latches_waitEvents]

/-- The monitor pairs the samples of whole bytes back to those bytes. -/
theorem busBytes_of_byteSamples {p : Params} {es : List BusEvent} {bytes : List (Bool × Byte)}
    (h : latches es = bytes.flatMap (byteSamples p)) : busBytes p es = bytes := by
  rw [busBytes, h]
  clear h
  induction bytes with
  | nil => cases p.bus8 <;> rfl
  | cons b bytes ih =>
    cases hb : p.bus8
    · simp only [hb, Bool.false_eq_true, if_false] at ih ⊢
      simp [byteSamples, hb, pairNibbles, nibbles_eq, ih]
    · simp only [hb, if_true] at ih ⊢
      simp [byteSamples, hb, ih]

/-- From E low to E low, these operations clock out exactly these bytes. -/
def ClocksOut (p : Params) (ops : List PinOp) (bytes : List (Bool × Byte)) : Prop :=
  Samples p (ELow p) (ELow p) ops (bytes.flatMap (byteSamples p))

theorem ClocksOut.append {p : Params} {xs ys : List PinOp} {bs cs : List (Bool × Byte)} (hx : ClocksOut p xs bs)
    (hy : ClocksOut p ys cs) : ClocksOut p (xs ++ ys) (bs ++ cs) := by
  unfold ClocksOut
  rw [List.flatMap_append]
  exact Samples.append hx hy

theorem ClocksOut.append_delay {p : Params} {ops : List PinOp} {bs : List (Bool × Byte)} (h : ClocksOut p ops bs)
    (n : Micros) : ClocksOut p (ops ++ delay n) bs := by
  simpa using h.append (cs := []) (samples_delay p _ n)

theorem clocksOut_nil (p : Params) : ClocksOut p [] [] := samples_nil p _

theorem clocksOut_transmit {p : Params} (hwf : p.wf = true) (settle : BitVec 16) (v : Byte) (rs : Bool) :
    ClocksOut p (transmit p settle v rs) [(rs, v)] := by
  intro lv hlow
  obtain ⟨-, -, heData, -, -⟩ := Params.wf_pins hwf
  obtain ⟨hev, hkeep⟩ := transmit_on_bus hwf settle v rs lv hlow
  obtain ⟨-, -, he⟩ := selectLines_on_bus hwf rs lv
  rw [hev, latches_byteEvents, List.flatMap_singleton]
  exact ⟨rfl, (hkeep _ heData).trans (he.trans hlow)⟩

theorem clocksOut_flatMap_data {p : Params} (hwf : p.wf = true) (settle : BitVec 16) (vs : List Byte) :
    ClocksOut p (vs.flatMap (data p settle)) (vs.map fun v => (true, v)) := by
  induction vs with
  | nil => exact clocksOut_nil p
  | cons v vs ih => exact (clocksOut_transmit hwf settle v true).append ih

/-- A drive of a pin off the bus shows nothing there. -/
theorem clocksOut_write_off_bus {p : Params} {pin : PinId} (hpin : pin ∉ p.busPins) (level : Bool) :
    ClocksOut p [.write pin level] [] := by
  intro lv hlow
  have he : p.e ≠ pin := fun h => hpin (h ▸ Params.mem_busPins.2 (by simp))
  exact ⟨by simp [busEvents, latches, he.symm], (drive_of_ne lv level he).trans hlow⟩

theorem clocksOut_setBacklightSequence {p : Params} {r : Regs} (hpin : r.blPin ∉ p.busPins) (level : Byte) :
    ClocksOut p (setBacklightSequence r level) [] := by
  unfold setBacklightSequence
  split
  · exact clocksOut_nil p
  · split
    · exact clocksOut_write_off_bus hpin _
    · split
      · exact clocksOut_write_off_bus hpin _
      · exact fun _ hlow => ⟨rfl, hlow⟩

theorem clocksOut_configBacklightSequence (p : Params) (pin : PinId) :
    ClocksOut p (configBacklightSequence pin) [] := by
  unfold configBacklightSequence
  split
  · exact clocksOut_nil p
  · exact samples_config p _ [pin]

/-! ### `BEGIN` on the bus (R117-R124) -/

/-- Steps 0 and 1 show nothing, and leave RS low too. -/
theorem samples_configure_powerUp {p : Params} (hwf : p.wf = true) :
    Samples p (ELow p) (ERsLow p) (configurePins p ++ powerUpLevels p) [] := by
  obtain ⟨hrs, -, -, -, -⟩ := Params.wf_pins hwf
  have hlevels : Samples p (ELow p) (ERsLow p) [.write p.rs false, .write p.e false] [] := by
    intro lv hlow
    have he : drive lv p.rs false p.e = false := (drive_of_ne lv _ hrs.symm).trans hlow
    refine ⟨by simp [busEvents, hrs, he, latches], drive_same _ _ _, ?_⟩
    exact (drive_of_ne _ _ hrs).trans (drive_same _ _ _)
  have hrwLow : Samples p (ERsLow p) (ERsLow p) (p.rwPins.map fun rw => .write rw false) [] := by
    intro lv ⟨he, hr⟩
    obtain ⟨hquiet, hkeep⟩ := rwLow_on_bus hwf lv
    obtain ⟨hrsRw, heRw⟩ := rs_e_not_mem_rwPins hwf
    rw [hquiet]
    exact ⟨rfl, (hkeep _ heRw).trans he, (hkeep _ hrsRw).trans hr⟩
  exact (samples_config p _ _).append (((samples_delay p _ _).append hlevels).append hrwLow)

/-- The bytes the monitor reads in step 2: the function-set byte three times, or the four recovery nibbles in pairs. -/
def recoveryBytes (p : Params) (r : Regs) : List Byte :=
  if p.bus8 then List.replicate 3 (functionSetByte r) else [0x33, 0x32]

theorem samples_recovery4 {p : Params} (hwf : p.wf = true) (hb : p.bus8 = false) (settle : BitVec 16) :
    Samples p (ERsLow p) (ELow p) (recovery4 p settle) [(false, 0x3), (false, 0x3), (false, 0x3), (false, 0x2)] := by
  obtain ⟨-, hrsData, heData, -, -⟩ := Params.wf_pins hwf
  have hnibble : ∀ x : Nibble, Samples p (ERsLow p) (ERsLow p) (clockOut p settle 4 x) [(false, x.setWidth 8)] := by
    intro x lv ⟨he, hr⟩
    obtain ⟨hev, hkeep⟩ := nibble_on_bus hwf hb settle x lv he
    rw [hev, hr]
    exact ⟨by simp [nibbleEvents, latches, latches_waitEvents], (hkeep _ heData).trans he, (hkeep _ hrsData).trans hr⟩
  have hwait := samples_delay p (ERsLow p)
  have hall := ((((((hnibble 0x3).append (hwait p.timing.tInit4.t0)).append (hnibble 0x3)).append
    (hwait p.timing.tInit4.t1)).append (hnibble 0x3)).append (hwait p.timing.tInit4.t2)).append (hnibble 0x2)
  exact fun lv hlv => ⟨(hall lv hlv).1, (hall lv hlv).2.1⟩

/-- Steps 0 to 2 on either bus. -/
theorem clocksOut_through_recovery {p : Params} (hwf : p.wf = true) (r : Regs) :
    ClocksOut p
      (configurePins p ++ powerUpLevels p ++ if p.bus8 then recovery8 p r else recovery4 p r.settle)
      ((recoveryBytes p r).map fun v => (false, v)) := by
  have hstart := samples_configure_powerUp hwf
  cases hb : p.bus8
  · have hbytes : ((recoveryBytes p r).map fun v => (false, v)).flatMap (byteSamples p) =
        [(false, 0x3), (false, 0x3), (false, 0x3), (false, 0x2)] := by
      simp [recoveryBytes, byteSamples, hb]
    unfold ClocksOut
    rw [hbytes]
    exact hstart.append (samples_recovery4 hwf hb r.settle)
  · have hquiet : ClocksOut p (configurePins p ++ powerUpLevels p) [] := fun lv hlow =>
      ⟨(hstart lv hlow).1, (hstart lv hlow).2.1⟩
    have hcmd := clocksOut_transmit hwf r.settle (functionSetByte r) false
    have hrec := ((hcmd.append_delay p.timing.tInit8.t0).append hcmd).append_delay p.timing.tInit8.t1
    have hall := hquiet.append ((hrec.append hcmd).append_delay p.timing.tInit8.t2)
    simpa [recoveryBytes, recovery8, command, hb] using hall

/-- The command bytes of `BEGIN`, from the registers it leaves. -/
def beginBytes (p : Params) (r : Regs) : List Byte :=
  recoveryBytes p r ++ [functionSetByte r, displayControlByte r, clearDisplayByte, entryModeByte r]

theorem clocksOut_beginSequence {p : Params} (hwf : p.wf = true) (r : Regs) :
    ClocksOut p (beginSequence p r) ((beginBytes p r).map fun v => (false, v)) := by
  have hcmd := fun v => clocksOut_transmit hwf r.settle v false
  have hall := ((((clocksOut_through_recovery hwf r).append (hcmd (functionSetByte r))).append
    (hcmd (displayControlByte r))).append ((hcmd clearDisplayByte).append_delay p.timing.tClear)).append
    (hcmd (entryModeByte r))
  simpa [beginBytes, beginSequence, clearSequence, command] using hall

/-! ### The last byte of a form -/

/-- Those of the bytes that are commands (R103). -/
def commandsOf (bytes : List (Bool × Byte)) : List Byte := (bytes.filter fun b => !b.1).map Prod.snd

theorem commandsOf_append (bs cs : List (Bool × Byte)) : commandsOf (bs ++ cs) = commandsOf bs ++ commandsOf cs := by
  simp [commandsOf]

theorem commandsOf_commands (vs : List Byte) : commandsOf (vs.map fun v => (false, v)) = vs := by
  simp [commandsOf, List.filter_map, Function.comp_def]

theorem commandsOf_data (vs : List Byte) : commandsOf (vs.map fun v => (true, v)) = [] := by
  simp [commandsOf, List.filter_map, Function.comp_def]

theorem commandBytes_of_clocksOut {p : Params} {ops : List PinOp} {bytes : List (Bool × Byte)} (h : ClocksOut p ops bytes)
    {lv : Levels} (hlow : lv p.e = false) : commandBytes p (busEvents p lv ops) = commandsOf bytes :=
  congrArg commandsOf (busBytes_of_byteSamples (h lv hlow).1)

/-- The last of these commands that has the form, or `old` when none has. -/
def lastSent (form : Byte → Bool) (old : Byte) (cmds : List Byte) : Byte := (cmds.filter form).getLast?.getD old

theorem lastSent_of_getLast? {form : Byte → Bool} {cmds : List Byte} {v : Byte} (h : (cmds.filter form).getLast? = some v)
    (old : Byte) : lastSent form old cmds = v := by
  rw [lastSent, h, Option.getD_some]

theorem lastSent_append (form : Byte → Bool) (old : Byte) (xs ys : List Byte) :
    lastSent form old (xs ++ ys) = lastSent form (lastSent form old xs) ys := by
  unfold lastSent
  rw [List.filter_append, List.getLast?_append]
  cases (ys.filter form).getLast? <;> rfl

theorem getLast?_filter_append {form : Byte → Bool} {xs : List Byte} {v : Byte} (h : (xs.filter form).getLast? = some v)
    (ys : List Byte) : ((xs ++ ys).filter form).getLast? = some (lastSent form v ys) := by
  unfold lastSent
  rw [List.filter_append, List.getLast?_append, h]
  cases (ys.filter form).getLast? <;> rfl

/-! ### The commands that carry a register, and the others (R80) -/

/-- A command of none of the three register-carrying forms. -/
def Neutral (v : Byte) : Prop := isFunctionSet v = false ∧ isDisplayControl v = false ∧ isEntryModeSet v = false

theorem functionSetByte_form {p : Params} {r : Regs} (h : RegsInv p r) :
    isFunctionSet (functionSetByte r) = true ∧ isDisplayControl (functionSetByte r) = false ∧
    isEntryModeSet (functionSetByte r) = false := by
  have hbits : r.func &&& 0xF3 = 0x10 ∨ r.func &&& 0xF3 = 0x00 := by
    rw [h.func]
    cases p.bus8 <;> simp
  unfold functionSetByte
  generalize r.func = v at hbits
  revert v
  decide

theorem displayControlByte_form {p : Params} {r : Regs} (h : RegsInv p r) :
    isFunctionSet (displayControlByte r) = false ∧ isDisplayControl (displayControlByte r) = true ∧
    isEntryModeSet (displayControlByte r) = false := by
  have hbits := h.dctrl
  unfold displayControlByte
  generalize r.dctrl = v at hbits
  revert v
  decide

theorem entryModeByte_form {p : Params} {r : Regs} (h : RegsInv p r) :
    isFunctionSet (entryModeByte r) = false ∧ isDisplayControl (entryModeByte r) = false ∧
    isEntryModeSet (entryModeByte r) = true := by
  have hbits := h.emode
  unfold entryModeByte
  generalize r.emode = v at hbits
  revert v
  decide

theorem neutral_clearDisplayByte : Neutral clearDisplayByte := ⟨rfl, rfl, rfl⟩

theorem neutral_returnHomeByte : Neutral returnHomeByte := ⟨rfl, rfl, rfl⟩

theorem neutral_scrollLeftByte : Neutral scrollLeftByte := ⟨rfl, rfl, rfl⟩

theorem neutral_scrollRightByte : Neutral scrollRightByte := ⟨rfl, rfl, rfl⟩

theorem neutral_setDdramAddrByte (addr : Byte) : Neutral (setDdramAddrByte addr) := by
  unfold Neutral setDdramAddrByte
  revert addr
  decide

theorem neutral_setCgramAddrByte (index : Byte) : Neutral (setCgramAddrByte (cgramAddress index)) := by
  unfold Neutral setCgramAddrByte cgramAddress
  revert index
  decide

/-- These commands take the controller's copies of FUNC, DCTRL and EMODE from those in `r` to those in `r'`. -/
structure Resends (r r' : Regs) (cmds : List Byte) : Prop where
  func : lastSent isFunctionSet (functionSetByte r) cmds = functionSetByte r'
  dctrl : lastSent isDisplayControl (displayControlByte r) cmds = displayControlByte r'
  emode : lastSent isEntryModeSet (entryModeByte r) cmds = entryModeByte r'

theorem Resends.append {r₁ r₂ r₃ : Regs} {xs ys : List Byte} (hx : Resends r₁ r₂ xs) (hy : Resends r₂ r₃ ys) :
    Resends r₁ r₃ (xs ++ ys) where
  func := by rw [lastSent_append, hx.func, hy.func]
  dctrl := by rw [lastSent_append, hx.dctrl, hy.dctrl]
  emode := by rw [lastSent_append, hx.emode, hy.emode]

/-- FUNC, DCTRL and EMODE are the same in both. -/
def SameShadows (r r' : Regs) : Prop := r'.func = r.func ∧ r'.dctrl = r.dctrl ∧ r'.emode = r.emode

theorem sameShadows_refl (r : Regs) : SameShadows r r := ⟨rfl, rfl, rfl⟩

theorem sameShadows_writeCurRow (r : Regs) (c : BitVec 2) : SameShadows r (r.writeCurRow c) := ⟨rfl, rfl, rfl⟩

/-- Nothing sent, and the three registers kept. -/
theorem resends_nil {r r' : Regs} (hkeep : SameShadows r r') :
    Resends r r' [] := by
  obtain ⟨hf, hd, he⟩ := hkeep
  exact ⟨congrArg (0x20 ||| ·) hf.symm, congrArg (0x08 ||| ·) hd.symm, congrArg (0x04 ||| ·) he.symm⟩

theorem resends_neutral {r r' : Regs} {v : Byte} (hv : Neutral v)
    (hkeep : SameShadows r r') : Resends r r' [v] := by
  obtain ⟨hvf, hvd, hve⟩ := hv
  obtain ⟨hf, hd, he⟩ := resends_nil hkeep
  exact ⟨by simpa [lastSent, hvf] using hf, by simpa [lastSent, hvd] using hd, by simpa [lastSent, hve] using he⟩

theorem resends_displayControl {p : Params} {r : Regs} (hr : RegsInv p r) (v : Byte) :
    Resends r (r.writeDctrl v) [displayControlByte (r.writeDctrl v)] := by
  obtain ⟨hf, hd, he⟩ := displayControlByte_form (hr.writeDctrl v)
  exact ⟨by simp [lastSent, hf, functionSetByte], by simp [lastSent, hd], by simp [lastSent, he, entryModeByte]⟩

theorem resends_entryMode {p : Params} {r : Regs} (hr : RegsInv p r) (v : Byte) :
    Resends r (r.writeEmode v) [entryModeByte (r.writeEmode v)] := by
  obtain ⟨hf, hd, he⟩ := entryModeByte_form (hr.writeEmode v)
  exact ⟨by simp [lastSent, hf, functionSetByte], by simp [lastSent, hd, displayControlByte], by simp [lastSent, he]⟩

/-- `BEGIN` sends all three registers, whatever the recovery bytes look like. -/
theorem beginBytes_getLast? {p : Params} {r : Regs} (hr : RegsInv p r) :
    ((beginBytes p r).filter isFunctionSet).getLast? = some (functionSetByte r) ∧
    ((beginBytes p r).filter isDisplayControl).getLast? = some (displayControlByte r) ∧
    ((beginBytes p r).filter isEntryModeSet).getLast? = some (entryModeByte r) := by
  obtain ⟨hff, hfd, hfe⟩ := functionSetByte_form hr
  obtain ⟨hdf, hdd, hde⟩ := displayControlByte_form hr
  obtain ⟨hef, hed, hee⟩ := entryModeByte_form hr
  obtain ⟨hcf, hcd, hce⟩ := neutral_clearDisplayByte
  simp [beginBytes, List.getLast?_append, hff, hfd, hfe, hdf, hdd, hde, hef, hed, hee, hcf, hcd, hce]

theorem resends_beginBytes {p : Params} {r' : Regs} (hr' : RegsInv p r') (r : Regs) : Resends r r' (beginBytes p r') := by
  obtain ⟨hf, hd, he⟩ := beginBytes_getLast? hr'
  exact ⟨lastSent_of_getLast? hf _, lastSent_of_getLast? hd _, lastSent_of_getLast? he _⟩

/-! ### Every request keeps the three registers and the controller together (R37, R130) -/

/-- `ops` clock out bytes whose commands take the controller from the registers `r` to the registers `r'`. -/
def Mirrors (p : Params) (r r' : Regs) (ops : List PinOp) : Prop :=
  ∃ bytes, ClocksOut p ops bytes ∧ Resends r r' (commandsOf bytes)

theorem Mirrors.append {p : Params} {r₁ r₂ r₃ : Regs} {xs ys : List PinOp} (hx : Mirrors p r₁ r₂ xs)
    (hy : Mirrors p r₂ r₃ ys) : Mirrors p r₁ r₃ (xs ++ ys) := by
  obtain ⟨bs, hbs, hrs⟩ := hx
  obtain ⟨cs, hcs, hrs'⟩ := hy
  exact ⟨bs ++ cs, hbs.append hcs, commandsOf_append bs cs ▸ hrs.append hrs'⟩

theorem Mirrors.append_delay {p : Params} {r r' : Regs} {ops : List PinOp} (h : Mirrors p r r' ops) (n : Micros) :
    Mirrors p r r' (ops ++ delay n) := by
  obtain ⟨bytes, hbytes, hres⟩ := h
  exact ⟨bytes, hbytes.append_delay n, hres⟩

theorem mirrors_silent {p : Params} {r r' : Regs} {ops : List PinOp} (h : ClocksOut p ops [])
    (hkeep : SameShadows r r') : Mirrors p r r' ops :=
  ⟨[], h, resends_nil hkeep⟩

theorem mirrors_command {p : Params} (hwf : p.wf = true) {r r' : Regs} {v : Byte} (h : Resends r r' [v])
    (settle : BitVec 16) : Mirrors p r r' (command p settle v) :=
  ⟨[(false, v)], clocksOut_transmit hwf settle v false, h⟩

theorem mirrors_neutral {p : Params} (hwf : p.wf = true) {r r' : Regs} {v : Byte} (hv : Neutral v)
    (hkeep : SameShadows r r') (settle : BitVec 16) :
    Mirrors p r r' (command p settle v) :=
  mirrors_command hwf (resends_neutral hv hkeep) settle

theorem mirrors_flatMap_data {p : Params} (hwf : p.wf = true) (r : Regs) (settle : BitVec 16) (vs : List Byte) :
    Mirrors p r r (vs.flatMap (data p settle)) :=
  ⟨_, clocksOut_flatMap_data hwf settle vs, commandsOf_data vs ▸ resends_nil (sameShadows_refl r)⟩

/-- What `BEGIN` accepts: its sequence, from the registers it leaves. -/
theorem execLcdBegin_next {cols rows : Byte} {font5x10 : Bool} {s t : State}
    (h : execLcdBegin cols rows font5x10 s = .next t) :
    s.params.wf = true ∧ t.seq = beginSequence s.params t.regs := by
  obtain ⟨hwf, rfl⟩ := State.accept_next h
  exact ⟨hwf, rfl⟩

/-- A toggle resends the register it writes, `BEGIN` sends all three, and no other instruction writes one or sends a command that
looks like one. -/
theorem exec_mirrors {i : Instr} {s t : State} (hr : RegsInv s.params s.regs) (h : exec i s = .next t) :
    Mirrors s.params s.regs t.regs t.seq := by
  obtain ⟨_, _, _, hacc⟩ := exec_accepts h
  obtain ⟨hwf, -⟩ := State.accept_next hacc
  cases i with
  | lcdBegin cols rows font =>
    rw [(execLcdBegin_next h).2]
    exact ⟨_, clocksOut_beginSequence hwf _,
      (commandsOf_commands _).symm ▸ resends_beginBytes (exec_regsInv hr h) s.regs⟩
  | clear =>
    rw [(State.accept_next h).2]
    exact (mirrors_neutral hwf neutral_clearDisplayByte (sameShadows_writeCurRow _ 0) _).append_delay _
  | home =>
    rw [(State.accept_next h).2]
    exact (mirrors_neutral hwf neutral_returnHomeByte (sameShadows_writeCurRow _ 0) _).append_delay _
  | setCursor col row =>
    rw [(State.accept_next h).2]
    exact mirrors_neutral hwf (neutral_setDdramAddrByte _) (sameShadows_writeCurRow _ _) _
  | displayOn | displayOff | cursorOn | cursorOff | blinkOn | blinkOff =>
    rw [(State.accept_next h).2]
    exact mirrors_command hwf (resends_displayControl hr _) _
  | leftToRight | rightToLeft | autoscrollOn | autoscrollOff =>
    rw [(State.accept_next h).2]
    exact mirrors_command hwf (resends_entryMode hr _) _
  | scrollLeft =>
    rw [(State.accept_next h).2]
    exact mirrors_neutral hwf neutral_scrollLeftByte (sameShadows_refl _) _
  | scrollRight =>
    rw [(State.accept_next h).2]
    exact mirrors_neutral hwf neutral_scrollRightByte (sameShadows_refl _) _
  | createChar index pattern =>
    rw [(State.accept_next h).2]
    exact (mirrors_neutral hwf (neutral_setCgramAddrByte index) (sameShadows_refl _) _).append (mirrors_flatMap_data hwf _ _ _)
  | write value =>
    rw [(State.accept_next h).2]
    simpa using mirrors_flatMap_data hwf s.regs s.regs.settle [value]
  | setRowOffsets | setSettleTime =>
    rw [(State.accept_next h).2]
    exact mirrors_silent (clocksOut_nil _) ⟨rfl, rfl, rfl⟩
  | configBacklight pin mode =>
    obtain ⟨-, h⟩ | ⟨-, -, h⟩ := execConfigBacklight_next h <;> rw [(State.accept_next h).2]
    · exact mirrors_silent (clocksOut_nil _) ⟨rfl, rfl, rfl⟩
    · exact mirrors_silent (clocksOut_configBacklightSequence _ pin) ⟨rfl, rfl, rfl⟩
  | setBacklight level =>
    rw [(State.accept_next h).2]
    exact mirrors_silent (clocksOut_setBacklightSequence hr.blPin level) ⟨rfl, rfl, rfl⟩

theorem acceptRequest_mirrors {req : Request} {s t : State} (hr : RegsInv s.params s.regs)
    (h : acceptRequest req s = .next t) : Mirrors s.params s.regs t.regs t.seq := by
  obtain ⟨i, -, h⟩ | ⟨e, -, hregs, hseq, -⟩ := acceptRequest_cases h
  · exact exec_mirrors (s := s.latch req) hr h
  · rw [hregs, hseq]
    exact mirrors_silent (clocksOut_nil _) ⟨rfl, rfl, rfl⟩

end Safety

namespace Machine

theorem serveAll_cons_next {req : Request} {reqs : List Request} {s u : State} (h : serveAll (req :: reqs) s = .next u) :
    ∃ t, serve req s = .next t ∧ serveAll reqs t = .next u := by
  rw [serveAll] at h
  split at h
  · next t ht => exact ⟨t, ht, h⟩
  · cases h
  · cases h

/-- A request served from acceptance to response: what its acceptance leaves in the registers, and its whole sequence in the
trace. -/
theorem serve_next_fields {req : Request} {s u : State} (h : serve req s = .next u) :
    ∃ t, acceptRequest req s = .next t ∧ u.params = s.params ∧ u.regs = t.regs ∧ u.trace = s.trace ++ t.seq := by
  obtain ⟨t, ht, rfl⟩ := serve_next h
  refine ⟨t, ht, ?_⟩
  rw [acceptRequest_frame ht]
  exact ⟨rfl, rfl, rfl⟩

theorem decode_encode_lcdBegin (cols rows : Byte) (font5x10 : Bool) :
    decode (encode (.lcdBegin cols rows font5x10)) = .ok (.lcdBegin cols rows font5x10) := by
  have hop : (encode (.lcdBegin cols rows font5x10)).op.toNat = 0x01 := by
    rw [encode, op_requestWord]
    rfl
  unfold decode
  rw [hop]
  simp [encode, Instr.operandA, Instr.operandB, Instr.operandF]

end Machine

namespace Safety

/-- Any requests served keep the controller's copies of the three registers those of the block. -/
theorem serveAll_mirrors {reqs : List Request} {s u : State} (hr : RegsInv s.params s.regs)
    (h : serveAll reqs s = .next u) : ∃ ops, u.trace = s.trace ++ ops ∧ Mirrors s.params s.regs u.regs ops := by
  induction reqs generalizing s with
  | nil =>
    cases h
    exact ⟨[], by simp, mirrors_silent (clocksOut_nil _) ⟨rfl, rfl, rfl⟩⟩
  | cons req reqs ih =>
    obtain ⟨m, hm, hrest⟩ := serveAll_cons_next h
    obtain ⟨t, ht, hparams, hregs, htrace⟩ := serve_next_fields hm
    have hmirror := acceptRequest_mirrors hr ht
    have hinv := acceptRequest_regsInv hr ht
    rw [← hregs, ← hparams] at hinv
    obtain ⟨ops, hops, hrestMirror⟩ := ih hinv hrest
    rw [hparams] at hrestMirror
    rw [← hregs] at hmirror
    exact ⟨t.seq ++ ops, by rw [hops, htrace, List.append_assoc], hmirror.append hrestMirror⟩

end Safety

/-- Settles O46: `BEGIN` sends all three registers, and every request after it keeps the last bytes sent equal to them, by induction
on the requests. -/
theorem shadowRegistersAreWhatWasLastSent : Obligations.ShadowRegistersAreWhatWasLastSent := by
  intro s u cols rows font reqs hr h
  obtain ⟨m, hm, hrest⟩ := serveAll_cons_next h
  obtain ⟨t, ht, hparams, hregs, htrace⟩ := serve_next_fields hm
  have hinv := acceptRequest_regsInv hr ht
  rw [acceptRequest_of_ok (decode_encode_lcdBegin cols rows font)] at ht
  obtain ⟨hwf, hseq⟩ := execLcdBegin_next ht
  rw [← hregs] at hinv hseq
  obtain ⟨ops, hops, bytes, hbytes, hres⟩ := serveAll_mirrors (hparams.symm ▸ hinv) hrest
  rw [hparams] at hbytes
  refine ⟨t.seq ++ ops, by rw [hops, htrace, List.append_assoc], fun lv hlow => ?_⟩
  have hsent : commandBytes s.params (busEvents s.params lv (t.seq ++ ops)) =
      beginBytes s.params m.regs ++ commandsOf bytes := by
    rw [hseq, ← commandsOf_commands (beginBytes s.params m.regs), ← commandsOf_append]
    exact commandBytes_of_clocksOut ((clocksOut_beginSequence hwf m.regs).append hbytes) hlow
  obtain ⟨hf, hd, he⟩ := beginBytes_getLast? hinv
  simp only [hsent, getLast?_filter_append hf, getLast?_filter_append hd, getLast?_filter_append he, hres.func, hres.dctrl,
    hres.emode]
  exact ⟨rfl, rfl, rfl⟩

end Sys2Proof
end

section
/-! Proofs of the statements of 20_memory.md on the sequencer: an edge refines the big-step meaning of a request (O38), a request
answered at every edge completes (O39), and a contested edge is refused (O42). -/

namespace Sys2Proof

open Machine Safety

namespace Machine

/-! ### A meaning does not read the coming edges (R22) -/

theorem State.accept_withInputs {s t : State} {regs : Regs} {seq : List PinOp} {resp : Response}
    (h : s.accept regs seq resp = .next t) (es : List Inputs) :
    State.accept { s with inputs := es } regs seq resp = .next { t with inputs := es } := by
  obtain ⟨hwf, rfl⟩ := State.accept_next h
  exact State.accept_eq { s with inputs := es } hwf regs seq resp

theorem exec_withInputs {i : Instr} {s t : State} (h : exec i s = .next t) (es : List Inputs) :
    exec i { s with inputs := es } = .next { t with inputs := es } := by
  cases i with
  | configBacklight pin mode =>
    obtain ⟨hmode, h⟩ | ⟨hmode, hpin, h⟩ := execConfigBacklight_next h
    · exact (execConfigBacklight_of_reserved hmode _).trans (State.accept_withInputs h es)
    · exact (execConfigBacklight_of_free_pin (s := { s with inputs := es }) hmode hpin).trans (State.accept_withInputs h es)
  | _ => exact State.accept_withInputs h es

theorem acceptRequest_withInputs {req : Request} {s t : State} (h : acceptRequest req s = .next t) (es : List Inputs) :
    acceptRequest req { s with inputs := es } = .next { t with inputs := es } := by
  cases hd : decode req with
  | ok i =>
    rw [acceptRequest_of_ok hd] at h ⊢
    exact exec_withInputs h es
  | error e =>
    rw [acceptRequest_of_error hd] at h ⊢
    exact State.accept_withInputs h es

theorem serve_of_acceptRequest {req : Request} {s t : State} (h : acceptRequest req s = .next t) :
    serve req s = .next t.finish := by
  simp [serve, h]

/-- Once a request is accepted, it is served the same way whatever the coming edges drive. -/
theorem serve_withInputs {req : Request} {s t : State} (h : acceptRequest req s = .next t) (es : List Inputs) :
    serve req { s with inputs := es } = .next { t.finish with inputs := es } :=
  serve_of_acceptRequest (acceptRequest_withInputs h es)

theorem acceptRequest_starts {req : Request} {s t : State} (h : acceptRequest req s = .next t) :
    t.phase = .busy ∧ t.ustep = 0 := by
  rw [acceptRequest_frame h]
  exact ⟨rfl, rfl⟩

/-! ### Bringing the request in flight to its end (R22, R62) -/

/-- An operation performed was one of those that remained. -/
theorem State.finish_perform {s : State} {op : PinOp} (hop : s.seq[s.ustep]? = some op) :
    (s.perform op).finish = s.finish := by
  obtain ⟨hlt, hget⟩ := List.getElem?_eq_some_iff.1 hop
  have hdrop : s.seq.drop s.ustep = op :: s.seq.drop (s.ustep + 1) := by
    rw [List.drop_eq_getElem_cons hlt, hget]
  have hmax : max (s.ustep + 1) s.seq.length = max s.ustep s.seq.length := by omega
  simp [State.finish, State.perform, hdrop, hmax]

/-- With no operation left, only the response remains. -/
theorem State.finish_of_end {s : State} (hend : s.seq.length ≤ s.ustep) : s.finish = s.deliver s.resp := by
  simp [State.finish, State.deliver, List.drop_eq_nil_of_le hend, Nat.max_eq_left hend]

/-! ### Contested edges (R64) -/

theorem State.contested_of_owned {s : State} {pin : PinId} (hdriven : pin ∈ s.edge.otherDrives)
    (howned : pin ∈ s.ownedPins) : s.contested = true :=
  List.any_eq_true.2 ⟨pin, hdriven, decide_eq_true howned⟩

theorem State.not_contested_of_no_driver {s : State} (h : s.edge.otherDrives = []) : s.contested = false := by
  simp [State.contested, h]

/-- The pins of R64: those of the bus, and BL_PIN when present. -/
theorem State.mem_ownedPins {s : State} {pin : PinId} :
    pin ∈ s.ownedPins ↔ pin ∈ s.params.busPins ∨ (pin = s.regs.blPin ∧ pin ≠ pinNone) := by
  by_cases habsent : s.regs.blPin = pinNone
  · simp [State.ownedPins, habsent]
  · rw [and_iff_left_of_imp fun he => he ▸ habsent]
    simp [State.ownedPins, habsent]

theorem step_contested {s : State} (hwf : s.params.wf = true) (hc : s.contested = true) :
    step s = .refused .contestedPin := by
  have hrefused : s.edgeRefusal = some .contestedPin := by simp [State.edgeRefusal, hwf, hc]
  simp [step, hrefused]

/-! ### Edges at which the port and the host are ready (R78, R79, R187) -/

theorem State.edge_of_cons {s : State} {e : Inputs} {es : List Inputs} (h : s.inputs = e :: es) : s.edge = e := by
  simp [State.edge, h]

theorem step_request {s : State} {req : Request} {es : List Inputs} (hwf : s.params.wf = true) (hidle : s.phase = .idle)
    (hin : s.inputs = Inputs.request req :: es) : step s = acceptRequest req { s with inputs := es } := by
  have hedge := State.edge_of_cons hin
  have hev : s.edgeEvent = .accept req := by
    rw [State.edgeEvent_of_idle hidle (congrArg Inputs.rst hedge), hedge]
    rfl
  rw [step_of_accept hwf (State.not_contested_of_no_driver (congrArg Inputs.otherDrives hedge)) hev, State.popEdge, hin,
    List.tail_cons]

section
variable {s : State} {es : List Inputs} (hwf : s.params.wf = true) (hbusy : s.phase = .busy)
  (hin : s.inputs = Inputs.ready :: es)
include hwf hbusy hin

theorem step_ready_op {op : PinOp} (hop : s.seq[s.ustep]? = some op) : step s = .next (s.popEdge.perform op) := by
  have hedge := State.edge_of_cons hin
  exact step_of_perform hwf (State.not_contested_of_no_driver (congrArg Inputs.otherDrives hedge))
    ((State.edgeEvent_of_op hbusy (congrArg Inputs.rst hedge) hop).trans (if_pos (congrArg Inputs.poReady hedge)))

theorem step_ready_end (hend : s.seq.length ≤ s.ustep) : step s = .next (s.popEdge.deliver s.resp) := by
  have hedge := State.edge_of_cons hin
  exact step_of_deliver hwf (State.not_contested_of_no_driver (congrArg Inputs.otherDrives hedge))
    ((State.edgeEvent_of_end hbusy (congrArg Inputs.rst hedge) hend).trans (if_pos (congrArg Inputs.respReady hedge)))

end

/-- With `n` operations left, `n + 1` ready edges bring the request to its end. -/
theorem core_run_ready {n : Nat} {s : State} {rest : List Inputs} (hwf : s.params.wf = true) (hbusy : s.phase = .busy)
    (hleft : s.ustep + n = s.seq.length) (hin : s.inputs = List.replicate (n + 1) Inputs.ready ++ rest) :
    Sys2Proof.core.run (n + 1) s = .next { s.finish with inputs := rest } := by
  induction n generalizing s with
  | zero =>
    rw [core_run_next (step_ready_end hwf hbusy hin hleft.ge), State.finish_of_end hleft.ge]
    simp [Host.Core.run, State.popEdge, State.deliver, hin]
  | succ n ih =>
    have hop : s.seq[s.ustep]? = some s.seq[s.ustep] := List.getElem?_eq_getElem (by omega)
    calc Sys2Proof.core.run (n + 1 + 1) s
      _ = Sys2Proof.core.run (n + 1) (s.popEdge.perform s.seq[s.ustep]) := core_run_next (step_ready_op hwf hbusy hin hop)
      _ = .next { (s.popEdge.perform s.seq[s.ustep]).finish with inputs := rest } :=
          ih hwf hbusy (by simp; omega) (by simp [hin, List.replicate_succ])
      _ = .next { s.finish with inputs := rest } := by
          rw [State.finish_perform (s := s.popEdge) hop]
          rfl

end Machine

namespace Safety

/-! ### The view that ignores the timing of the handshakes (R62) -/

theorem completedView_of_idle {s : State} (h : s.phase = .idle) : completedView s = { s with inputs := [] } := by
  simp [completedView, h]

theorem completedView_of_busy {s : State} (h : s.phase = .busy) : completedView s = { s.finish with inputs := [] } := by
  simp [completedView, h]

theorem completedView_popEdge (s : State) : completedView s.popEdge = completedView s := by
  cases hp : s.phase
  · rw [completedView_of_idle hp, completedView_of_idle (s := s.popEdge) hp]
    rfl
  · rw [completedView_of_busy hp, completedView_of_busy (s := s.popEdge) hp]
    rfl

theorem completedView_perform {s : State} {op : PinOp} (hbusy : s.phase = .busy) (hop : s.seq[s.ustep]? = some op) :
    completedView (s.perform op) = completedView s := by
  rw [completedView_of_busy hbusy, completedView_of_busy (s := s.perform op) hbusy, State.finish_perform hop]

theorem completedView_deliver {s : State} (hbusy : s.phase = .busy) (hend : s.seq.length ≤ s.ustep) :
    completedView (s.deliver s.resp) = completedView s := by
  rw [completedView_of_busy hbusy, completedView_of_idle (State.deliver_phase s s.resp), State.finish_of_end hend]

/-- From IDLE, the view after an acceptance is the request served. -/
theorem serve_completedView {req : Request} {s t : State} (hidle : s.phase = .idle)
    (h : acceptRequest req s.popEdge = .next t) : serve req (completedView s) = .next (completedView t) := by
  rw [completedView_of_idle hidle, completedView_of_busy (acceptRequest_starts h).1]
  exact serve_withInputs h []

end Safety

/-- Settles O38, by the cases of a step without reset: an acceptance is the request served in the view; an operation performed, a
response taken and a hold leave the view, since `finish` does from there what was left to do. -/
theorem everyEdgeRefinesTheBigStep : Obligations.EveryEdgeRefinesTheBigStep := by
  intro s t h hrst
  obtain ⟨-, -, ⟨hr, -⟩ | ⟨req, hidle, -, hv, rfl, hacc⟩ | ⟨op, hbusy, -, -, hop, rfl⟩ | ⟨hbusy, -, -, hend, rfl⟩ |
    ⟨-, rfl, hhold⟩⟩ := step_cases h
  · simp [hrst] at hr
  · exact ⟨fun _ _ => serve_completedView hidle hacc, fun hno => by simp [hidle, hv] at hno⟩
  · refine ⟨fun hidle => by simp [hbusy] at hidle, fun _ => ?_⟩
    exact (completedView_perform (s := s.popEdge) hbusy hop).trans (completedView_popEdge s)
  · refine ⟨fun hidle => by simp [hbusy] at hidle, fun _ => ?_⟩
    exact (completedView_deliver (s := s.popEdge) hbusy hend).trans (completedView_popEdge s)
  · exact ⟨fun hidle hv => by simp [hidle, hv] at hhold, fun _ => completedView_popEdge s⟩

/-- Settles O39: the first edge accepts, and the ready edges after it bring the request to its end, by induction on the operations
left. -/
theorem acceptedRequestsComplete : Obligations.AcceptedRequestsComplete := by
  intro s t req rest hidle hacc hin
  have hwf := acceptRequest_wf hacc
  obtain ⟨hbusy, hustep⟩ := acceptRequest_starts hacc
  obtain ⟨hparams, -, -⟩ := acceptRequest_keeps hacc
  have hstep := (step_request hwf hidle hin).trans (acceptRequest_withInputs hacc _)
  rw [core_run_next hstep, serve_withInputs hacc]
  exact core_run_ready (hparams ▸ hwf) hbusy (by simp [hustep]) rfl

/-- Settles O42: such a pin is one the block owns. -/
theorem contestedPinsAreRefused : Obligations.ContestedPinsAreRefused := by
  intro s pin hwf hdriven howned
  exact step_contested hwf (State.contested_of_owned hdriven (State.mem_ownedPins.2 howned))

end Sys2Proof
end

section
/-! Proof of the statement of 20_memory.md on a transmit (O6): the levels it leaves on E and RW, beside what it shows on the bus. -/

namespace Sys2Proof

open Machine Safety

namespace Safety

/-- The select step leaves a present RW low (R101). -/
theorem selectLines_rw_low {p : Params} (hrw : p.rw ≠ pinNone) (rs : Bool) (lv : Levels) :
    levelsAfter lv (selectLines p rs) p.rw = false := by
  simp [selectLines, Params.rwPins, hrw, levelsAfter]

end Safety

/-- Settles O6: a transmit leaves the pins off the data lines as its select step does. -/
theorem transmitClocksOutTheByte : Obligations.TransmitClocksOutTheByte := by
  intro p settle v rs lv hwf hlow
  obtain ⟨-, -, heData, -, -⟩ := Params.wf_pins hwf
  obtain ⟨-, -, hrwData⟩ := Params.rw_ne hwf
  obtain ⟨-, -, he⟩ := selectLines_on_bus hwf rs lv
  obtain ⟨hshown, hkeep⟩ := transmit_on_bus hwf settle v rs lv hlow
  refine ⟨hshown, (hkeep _ heData).trans (he.trans hlow), fun hrw => ?_⟩
  exact (hkeep _ hrwData).trans (selectLines_rw_low hrw rs lv)

end Sys2Proof
end

section
/-! Proofs of the statements of 30_encoding.md on the request format (O1-O4, O26): what `decode` reads of a request, row by row; what
the encoder's request holds in each field; what the canonical form of R84 keeps; and the two reserved cases. -/

namespace Sys2Proof

open Machine

/-! ### The row of an opcode (R74, R83) -/

/-- The instruction of the same row of R74 with the operands that R75 assembles from this request. -/
def Instr.readFrom (r : Request) : Instr → Instr
  | .lcdBegin _ _ _ => .lcdBegin r.a r.b r.f
  | .setCursor _ _ => .setCursor r.a r.b
  | .createChar _ _ => .createChar r.a r.glyph
  | .write _ => .write r.a
  | .setRowOffsets _ => .setRowOffsets r.rowOffsets
  | .setSettleTime _ => .setSettleTime r.ba
  | .configBacklight _ _ => .configBacklight r.a r.mode
  | .setBacklight _ => .setBacklight r.a
  | i => i

/-- A request with the opcode of a row decodes to that row's instruction. -/
theorem decode_of_opcode {r : Request} {i : Instr} (h : r.op = i.opcode) : decode r = .ok (i.readFrom r) := by
  unfold decode
  rw [h]
  cases i <;> rfl

theorem readFrom_of_decode {r : Request} {i : Instr} (h : decode r = .ok i) : i.readFrom r = i :=
  Except.ok.inj ((decode_of_opcode (decode_opcode h)).symm.trans h)

theorem decode_error_eq {r : Request} {e : DecodeError} (h : decode r = .error e) : e = .reservedOpcode r.op := by
  unfold decode at h
  split at h <;> cases h
  rfl

theorem Instr.opcode_not_reserved (i : Instr) : ¬(i.opcode.toNat = 0x00 ∨ 0x17 ≤ i.opcode.toNat) := by
  cases i <;> simp [Instr.opcode]

theorem decode_of_reserved {r : Request} (h : r.op.toNat = 0x00 ∨ 0x17 ≤ r.op.toNat) :
    decode r = .error (.reservedOpcode r.op) := by
  cases hd : decode r with
  | ok i => exact absurd (decode_opcode hd ▸ h) i.opcode_not_reserved
  | error e => rw [decode_error_eq hd]

/-! ### The fields of the encoder's request (R89) -/

theorem encode_op (i : Instr) : (encode i).op = i.opcode := op_requestWord _ _ _ _ _

theorem encode_f (i : Instr) : (encode i).f = i.operandF := f_requestWord _ _ _ _ _

theorem encode_b (i : Instr) : (encode i).b = i.operandB := b_requestWord _ _ _ _ _

theorem encode_a (i : Instr) : (encode i).a = i.operandA := a_requestWord _ _ _ _ _

theorem encode_glyph (i : Instr) : (encode i).glyph = i.operandPay := glyph_payloadOf _ _

theorem encode_rowOffsets (o : RowOffsets) : (encode (.setRowOffsets o)).rowOffsets = o := rowOffsets_payloadOf _ _

theorem encode_ba (us : BitVec 16) : (encode (.setSettleTime us)).ba = us := by
  rw [Request.ba, encode_b, encode_a]
  exact BitVec.extractLsb'_append_extractLsb'

theorem encode_mode (pin : PinId) (mode : BitVec 2) : (encode (.configBacklight pin mode)).mode = mode := by
  rw [Request.mode, encode_b, Instr.operandB, BitVec.extractLsb'_append_eq_of_add_le (by decide), BitVec.extractLsb'_eq_self]

theorem readFrom_encode (i : Instr) : i.readFrom (encode i) = i := by
  cases i with
  | lcdBegin => rw [Instr.readFrom, encode_a, encode_b, encode_f]; rfl
  | setCursor => rw [Instr.readFrom, encode_a, encode_b]; rfl
  | createChar => rw [Instr.readFrom, encode_a, encode_glyph]; rfl
  | write | setBacklight => rw [Instr.readFrom, encode_a]; rfl
  | setRowOffsets => rw [Instr.readFrom, encode_rowOffsets]
  | setSettleTime => rw [Instr.readFrom, encode_ba]
  | configBacklight => rw [Instr.readFrom, encode_a, encode_mode]; rfl
  | _ => rfl

/-- Settles O1: the encoder's request has the opcode of the instruction's row and its operands in their fields. -/
theorem decodeOfEncodeGivesBackTheInstruction : Obligations.DecodeOfEncodeGivesBackTheInstruction := by
  intro i
  rw [decode_of_opcode (encode_op i), readFrom_encode]

/-- Settles O4, each word by computation. -/
theorem wordsOfTheSpecDecode : Obligations.WordsOfTheSpecDecode :=
  ⟨rfl, rfl, rfl, rfl, rfl, rfl, rfl, rfl, rfl, rfl, rfl, rfl, rfl⟩

/-- Settles O3: a reserved opcode does not decode, and its acceptance is the abnormal completion. -/
theorem reservedOpcodesAreFlaggedNoOps : Obligations.ReservedOpcodesAreFlaggedNoOps := by
  refine ⟨fun req s hwf hop => ?_, fun req hne hlt => ?_⟩
  · rw [acceptRequest_of_error (decode_of_reserved hop)]
    exact State.accept_eq (s.latch req) hwf _ _ _
  · cases hd : decode req with
    | ok i => exact ⟨i, rfl⟩
    | error e => have := decode_error hd; omega

/-! ### The canonical form (R84): each field ANDed with what the opcode's row reads -/

theorem and_eq_zero_of_mask {w : Nat} (x : BitVec w) {m : BitVec w} (h : m = 0) : x &&& m = 0 := by
  rw [h]
  exact BitVec.and_zero

theorem canonical_word (r : Request) : r.canonical.word = r.word &&& usedWordBits r.op := rfl

theorem canonical_payload (r : Request) : r.canonical.payload = r.payload &&& usedPayloadBits r.op := rfl

theorem canonical_a (r : Request) : r.canonical.a = r.a &&& (usedWordBits r.op).extractLsb' 0 8 := BitVec.extractLsb'_and

theorem canonical_b (r : Request) : r.canonical.b = r.b &&& (usedWordBits r.op).extractLsb' 8 8 := BitVec.extractLsb'_and

theorem canonical_f (r : Request) : r.canonical.f = (r.f && (usedWordBits r.op).getLsbD 16) := BitVec.getLsbD_and

theorem canonical_pay (r : Request) (k : Nat) :
    r.canonical.pay k = r.pay k &&& (usedPayloadBits r.op).extractLsb' (8 * k) 8 := BitVec.extractLsb'_and

theorem usedWordBits_op (op : BitVec 5) : (usedWordBits op).extractLsb' 27 5 = BitVec.allOnes 5 := by
  revert op
  decide

theorem canonical_op (r : Request) : r.canonical.op = r.op := by
  have hand : r.canonical.op = r.op &&& (usedWordBits r.op).extractLsb' 27 5 := BitVec.extractLsb'_and
  rw [hand, usedWordBits_op, BitVec.and_allOnes]

theorem canonical_mode (r : Request) :
    r.canonical.mode = r.mode &&& ((usedWordBits r.op).extractLsb' 8 8).extractLsb' 0 2 := by
  rw [Request.mode, canonical_b, BitVec.extractLsb'_and]
  rfl

/-- A row reads every bit of its operands. -/
theorem readFrom_canonical {r : Request} {i : Instr} (h : r.op = i.opcode) : i.readFrom r.canonical = i.readFrom r := by
  have hbyte : ∀ x : Byte, x &&& 255#8 = x := fun _ => BitVec.and_allOnes
  have hmode : ∀ x : BitVec 2, x &&& 3#2 = x := fun _ => BitVec.and_allOnes
  cases i <;>
    simp [Instr.readFrom, Request.ba, Request.glyph, Request.rowOffsets, canonical_a, canonical_b, canonical_f, canonical_mode,
      canonical_pay, h, Instr.opcode, usedWordBits, usedPayloadBits, hbyte, hmode]

theorem decode_canonical (r : Request) : decode r.canonical = decode r := by
  cases hd : decode r with
  | ok i =>
    have hop := decode_opcode hd
    rw [decode_of_opcode ((canonical_op r).trans hop), readFrom_canonical hop, readFrom_of_decode hd]
  | error e =>
    have hop := decode_error hd
    rw [decode_of_reserved (canonical_op r ▸ hop), canonical_op, decode_error_eq hd]

/-! ### A meaning does not read CUR (R22) -/

namespace Machine

/-- The outcome with this request latched in CUR. -/
def withCur (req : Request) : Host.Outcome State Fault Refusal → Host.Outcome State Fault Refusal
  | .next t => .next (t.latch req)
  | .fault x => .fault x
  | .refused x => .refused x

theorem State.accept_latch (s : State) (req : Request) (regs : Regs) (seq : List PinOp) (resp : Response) :
    (s.latch req).accept regs seq resp = withCur req (s.accept regs seq resp) := by
  cases hwf : s.params.wf
  · rw [State.accept_illFormed hwf, State.accept_illFormed (s := s.latch req) hwf]
    rfl
  · rw [State.accept_eq s hwf, State.accept_eq (s.latch req) hwf]
    rfl

theorem exec_latch (i : Instr) (s : State) (req : Request) : exec i (s.latch req) = withCur req (exec i s) := by
  cases i with
  | configBacklight pin mode =>
    simp only [exec, execConfigBacklight, State.latch_params, State.acceptReserved, State.latch_regs, State.accept_latch]
    split
    · rfl
    · split <;> rfl
  | _ => exact State.accept_latch s req _ _ _

/-- Two requests that decode alike have the same outcome, CUR apart. -/
theorem acceptRequest_congr {r r' : Request} (hd : decode r' = decode r) (s : State) :
    acceptRequest r' s = withCur r' (acceptRequest r s) := by
  cases h : decode r with
  | ok i =>
    rw [acceptRequest_of_ok h, acceptRequest_of_ok (hd.trans h)]
    exact exec_latch i (s.latch r) r'
  | error e =>
    rw [acceptRequest_of_error h, acceptRequest_of_error (hd.trans h)]
    exact State.accept_latch (s.latch r) r' _ _ _

end Machine

/-- Settles O2: the bits that a row does not read are 0 in its masks, and what it reads is kept, so the canonical form decodes to the
same instruction. -/
theorem ignoredBitsChangeNothing : Obligations.IgnoredBitsChangeNothing := by
  intro r s
  refine ⟨?_, fun h => ?_, fun h => ?_, fun h => ?_, fun h => ?_, fun h => ?_, fun h => ?_, decode_canonical r, ?_⟩
  · have hmask : ∀ op, usedWordBits op &&& 0x07FE0000 = 0 := by decide
    rw [canonical_word, BitVec.and_assoc]
    exact and_eq_zero_of_mask _ (hmask _)
  · have hmask : ∀ op, op ≠ 0x01 → (usedWordBits op).getLsbD 16 = false := by decide
    rw [canonical_f, hmask _ h, Bool.and_false]
  · have hmask : ∀ op, op ∉ [0x01, 0x04, 0x11, 0x12, 0x14, 0x15, 0x16] → (usedWordBits op).extractLsb' 0 8 = 0 := by decide
    rw [canonical_a]
    exact and_eq_zero_of_mask _ (hmask _ h)
  · have hmask : ∀ op, op ∉ [0x01, 0x04, 0x14, 0x15] → (usedWordBits op).extractLsb' 8 8 = 0 := by decide
    rw [canonical_b]
    exact and_eq_zero_of_mask _ (hmask _ h)
  · rw [canonical_b, h, BitVec.and_assoc]
    exact and_eq_zero_of_mask _ rfl
  · have hmask : ∀ op, op ≠ 0x11 → usedPayloadBits op >>> 32 = 0 := by decide
    rw [canonical_payload, BitVec.ushiftRight_and_distrib]
    exact and_eq_zero_of_mask _ (hmask _ h)
  · have hmask : ∀ op, op ∉ [0x11, 0x13] → usedPayloadBits op = 0 := by decide
    exact and_eq_zero_of_mask _ (hmask _ h)
  · rw [acceptRequest_congr (decode_canonical r)]
    cases acceptRequest r s <;> rfl

/-! ### The two reserved cases and the responses (R79, R85, R181) -/

/-- The mode bits are the word's bits 9:8. -/
theorem Request.mode_eq (r : Request) : r.mode = r.word.extractLsb' 8 2 := by
  apply BitVec.eq_of_getLsbD_eq
  intro k hk
  simp only [Request.mode, Request.b, BitVec.getLsbD_extractLsb']
  grind

/-- Of the requests that decode, the illegal ones are those of opcode 0x15 with mode 3 (R85). -/
theorem wf_of_decode {r : Request} {i : Instr} (h : decode r = .ok i) :
    i.wf = false ↔ r.op = 0x15 ∧ r.word.extractLsb' 8 2 = 3 := by
  have hop := decode_opcode h
  cases i with
  | configBacklight pin mode =>
    obtain ⟨-, hmode⟩ := Instr.configBacklight.inj (readFrom_of_decode h)
    simp [Instr.wf, hop, Instr.opcode, ← r.mode_eq, hmode]
  | _ => simp [Instr.wf, hop, Instr.opcode]

/-- R181's reserved cases, for a request that decodes. -/
theorem reserved_iff_of_decode {r : Request} {i : Instr} (h : decode r = .ok i) :
    (r.op = 0x00 ∨ 0x17 ≤ r.op.toNat ∨ (r.op = 0x15 ∧ r.word.extractLsb' 8 2 = 3)) ↔ i.wf = false := by
  obtain ⟨hzero, hhigh⟩ := not_or.1 (decode_opcode h ▸ i.opcode_not_reserved)
  rw [wf_of_decode h, or_iff_right fun hop => hzero (congrArg BitVec.toNat hop), or_iff_right hhigh]

/-- R181's reserved cases, for a request that does not decode. -/
theorem reserved_of_decode_error {r : Request} {e : DecodeError} (h : decode r = .error e) :
    r.op = 0x00 ∨ 0x17 ≤ r.op.toNat ∨ (r.op = 0x15 ∧ r.word.extractLsb' 8 2 = 3) :=
  (decode_error h).imp BitVec.eq_of_toNat_eq .inl

namespace Machine

/-- An illegal instruction completes abnormally. -/
theorem exec_illegal {i : Instr} (h : i.wf = false) (s : State) : exec i s = s.acceptReserved := by
  cases i with
  | configBacklight pin mode => exact execConfigBacklight_of_reserved (by simpa [Instr.wf] using h) s
  | _ => cases h

/-- The response of a legal instruction: one byte for `WRITE`, none for every other. -/
theorem exec_legal_resp {i : Instr} {s t : State} (hi : i.wf = true) (h : exec i s = .next t) :
    t.resp = if i.opcode = 0x12 then Response.oneByte else Response.done := by
  cases i with
  | configBacklight pin mode =>
    obtain ⟨hmode, -⟩ | ⟨-, -, h⟩ := execConfigBacklight_next h
    · simp [Instr.wf, hmode] at hi
    · rw [(State.accept_next h).2]
      rfl
  | _ =>
    rw [(State.accept_next h).2]
    rfl

end Machine

/-- Settles O26: what does not decode, or decodes to an illegal instruction, completes abnormally; a legal one answers by its
row. -/
theorem responsesTellWriteAndReserved : Obligations.ResponsesTellWriteAndReserved := by
  intro req s t h
  obtain ⟨i, hd, hi⟩ | ⟨e, hd, hregs, hseq, hresp⟩ := acceptRequest_cases h
  · have hreserved := reserved_iff_of_decode hd
    cases hwf : i.wf
    · rw [exec_illegal hwf] at hi
      rw [(State.accept_next hi).2]
      exact ⟨fun _ => ⟨rfl, rfl, rfl⟩, fun hno => absurd (hreserved.2 hwf) hno, fun hno => absurd (hreserved.2 hwf) hno⟩
    · have hresp := exec_legal_resp hwf hi
      rw [← decode_opcode hd] at hresp
      exact ⟨fun hyes => absurd (hreserved.1 hyes) (by simp [hwf]), fun _ hop => hresp.trans (if_pos hop),
        fun _ hop => hresp.trans (if_neg hop)⟩
  · have hyes := reserved_of_decode_error hd
    exact ⟨fun _ => ⟨hresp, hregs, hseq⟩, fun hno => absurd hyes hno, fun hno => absurd hyes hno⟩

end Sys2Proof
end

section
/-! Proofs of the statements of 30_encoding.md on what requests emit: `PRINT` (O21), the form of the pin operations (O27), the forms
of the command bytes (O28), and the output lines (O37). -/

namespace Sys2Proof

open Machine Safety

/-! ### `PRINT` (R90) -/

namespace Safety

/-- A run of data writes shows its bytes in order. -/
theorem busEvents_flatMap_data {p : Params} (hwf : p.wf = true) (settle : BitVec 16) (bytes : List Byte) (lv : Levels)
    (hlow : lv p.e = false) :
    busEvents p lv (bytes.flatMap (data p settle)) = bytes.flatMap (byteEvents p settle true) := by
  induction bytes generalizing lv with
  | nil => rfl
  | cons v bytes ih =>
    obtain ⟨hshown, he, -⟩ := transmitClocksOutTheByte p settle v true lv hwf hlow
    rw [List.flatMap_cons, List.flatMap_cons, busEvents_append]
    exact congrArg₂ (· ++ ·) hshown (ih _ he)

end Safety

namespace Machine

/-- One `WRITE`, from acceptance to response (R145). -/
theorem serve_write {s : State} (hwf : s.params.wf = true) (v : Byte) :
    ∃ t, serve (encode (.write v)) s = .next t ∧ t.params = s.params ∧ t.regs = s.regs ∧
      t.responses = s.responses ++ [Response.oneByte] ∧ t.trace = s.trace ++ data s.params s.regs.settle v := by
  have hacc : acceptRequest (encode (.write v)) s = _ :=
    (acceptRequest_of_ok (decodeOfEncodeGivesBackTheInstruction (.write v)) s).trans
      (State.accept_eq (s.latch (encode (.write v))) hwf _ _ _)
  exact ⟨_, serve_of_acceptRequest hacc, rfl, rfl, rfl, rfl⟩

theorem serveAll_cons {req : Request} {s t : State} (h : serve req s = .next t) (reqs : List Request) :
    serveAll (req :: reqs) s = serveAll reqs t := by
  simp [serveAll, h]

theorem serveAll_writes {s : State} (hwf : s.params.wf = true) (bytes : List Byte) :
    ∃ u, serveAll (bytes.map fun v => encode (.write v)) s = .next u ∧ u.regs = s.regs ∧
      u.responses = s.responses ++ List.replicate bytes.length Response.oneByte ∧
      u.trace = s.trace ++ bytes.flatMap (data s.params s.regs.settle) := by
  induction bytes generalizing s with
  | nil => exact ⟨s, rfl, rfl, by simp, by simp⟩
  | cons v bytes ih =>
    obtain ⟨t, ht, hparams, hregs, hresps, htrace⟩ := serve_write hwf v
    obtain ⟨u, hu, huregs, huresps, hutrace⟩ := ih (hparams ▸ hwf)
    refine ⟨u, (serveAll_cons ht _).trans hu, huregs.trans hregs, ?_, ?_⟩
    · simp [huresps, hresps, List.replicate_succ]
    · simp [hutrace, htrace, hparams, hregs]

end Machine

/-- Settles O21, by induction on the bytes: each `WRITE` adds its response and its data write, and leaves the registers. -/
theorem printWritesEveryByte : Obligations.PrintWritesEveryByte := by
  intro s bytes hwf
  obtain ⟨u, hu, hregs, hresps, htrace⟩ := serveAll_writes hwf bytes
  refine ⟨u, ?_, hregs, hresps, _, htrace, busEvents_flatMap_data hwf s.regs.settle bytes⟩
  rw [Pseudo.expand, List.map_map]
  exact hu

/-! ### The lines of the pin-operation channel (R77) -/

theorem Machine.PinOp.lines_duty (pin : PinId) (x : Byte) : (PinOp.duty pin x).lines = ⟨3, pin, BitVec.ofNat 32 x.toNat⟩ := by
  rw [BitVec.ofNat_toNat]
  rfl

/-- Settles O27: the lines are read off each operation, and every operation of an accepted instruction is legal. -/
theorem pinOperationsHaveTheFormOfTheTable : Obligations.PinOperationsHaveTheFormOfTheTable :=
  ⟨fun pin _ x => ⟨rfl, rfl, rfl, rfl, rfl, PinOp.lines_duty pin x⟩, fun _ _ _ hr h => exec_legalOp hr h⟩

/-! ### The output lines (R76, R78, R79) -/

namespace Machine

theorem State.outputs_of_idle {s : State} (hp : s.phase = .idle) (hr : s.edge.rst = false) :
    s.outputs = ⟨true, none, none⟩ := by
  simp [State.outputs, State.reqReady, State.presentedOp, State.presentedResponse, hp, hr]

theorem State.outputs_of_op {s : State} (hp : s.phase = .busy) (hr : s.edge.rst = false) (hu : s.ustep < s.seq.length) :
    s.outputs = ⟨false, some s.seq[s.ustep].lines, none⟩ := by
  simp [State.outputs, State.reqReady, State.presentedOp_of_busy hp hr, State.presentedResponse, hp, hu]

theorem State.outputs_of_end {s : State} (hp : s.phase = .busy) (hr : s.edge.rst = false) (hu : s.seq.length ≤ s.ustep) :
    s.outputs = ⟨false, none, some s.resp⟩ := by
  simp [State.outputs, State.reqReady, State.presentedOp_of_busy hp hr, State.presentedResponse_of_busy hp hr hu, hp, hu]

end Machine

/-- Settles O37: the outputs in IDLE, in BUSY with an operation left, and in BUSY at the end of SEQ. -/
theorem outputsFollowTheSequencer : Obligations.OutputsFollowTheSequencer := by
  intro s hr
  refine ⟨?_, fun hp => ?_, fun hp hu => ?_, fun hp hu => ?_⟩
  · simp [State.outputs, State.reqReady, hr]
  · rw [State.outputs_of_idle hp hr]
    exact ⟨rfl, rfl⟩
  · rw [State.outputs_of_op hp hr hu]
    exact ⟨rfl, rfl⟩
  · rw [State.outputs_of_end hp hr hu.ge]
    exact ⟨rfl, rfl⟩

/-! ### The forms of the command bytes (R80, R87) -/

namespace Safety

theorem isCommandForm_functionSetByte {p : Params} {r : Regs} (h : RegsInv p r) :
    isCommandForm (functionSetByte r) = true := by
  have hbits : r.func &&& 0xF3 = 0x10 ∨ r.func &&& 0xF3 = 0x00 := by
    rw [h.func]
    cases p.bus8 <;> simp
  unfold functionSetByte
  generalize r.func = v at hbits
  revert v
  decide

theorem isCommandForm_displayControlByte {p : Params} {r : Regs} (h : RegsInv p r) :
    isCommandForm (displayControlByte r) = true := by
  simp [isCommandForm, displayControlByte_form h]

theorem isCommandForm_entryModeByte {p : Params} {r : Regs} (h : RegsInv p r) :
    isCommandForm (entryModeByte r) = true := by
  simp [isCommandForm, entryModeByte_form h]

theorem isCommandForm_clearDisplayByte : isCommandForm clearDisplayByte = true := rfl

theorem isCommandForm_setDdramAddrByte (addr : Byte) : isCommandForm (setDdramAddrByte addr) = true := by
  revert addr
  decide

theorem isCommandForm_setCgramAddrByte (index : Byte) : isCommandForm (setCgramAddrByte (cgramAddress index)) = true := by
  revert index
  decide

/-- `ops` clock out bytes whose commands all have a form of R80. -/
def SendsForms (p : Params) (ops : List PinOp) : Prop :=
  ∃ bytes, ClocksOut p ops bytes ∧ ∀ v ∈ commandsOf bytes, isCommandForm v = true

section
variable {p : Params} {ops : List PinOp}

theorem sendsForms_silent (h : ClocksOut p ops []) : SendsForms p ops := ⟨[], h, List.forall_mem_nil _⟩

theorem SendsForms.append {ops' : List PinOp} (h : SendsForms p ops) (h' : SendsForms p ops') : SendsForms p (ops ++ ops') := by
  obtain ⟨bs, hbs, hforms⟩ := h
  obtain ⟨cs, hcs, hforms'⟩ := h'
  exact ⟨bs ++ cs, hbs.append hcs, commandsOf_append bs cs ▸ List.forall_mem_append.2 ⟨hforms, hforms'⟩⟩

theorem SendsForms.append_delay (h : SendsForms p ops) (n : Micros) : SendsForms p (ops ++ delay n) :=
  h.append (sendsForms_silent (samples_delay p _ n))

theorem sendsForms_commands {vs : List Byte} (h : ClocksOut p ops (vs.map fun v => (false, v)))
    (hforms : ∀ v ∈ vs, isCommandForm v = true) : SendsForms p ops :=
  ⟨_, h, (commandsOf_commands vs).symm ▸ hforms⟩

theorem sendsForms_command (hwf : p.wf = true) {v : Byte} (hform : isCommandForm v = true) (settle : BitVec 16) :
    SendsForms p (command p settle v) :=
  sendsForms_commands (vs := [v]) (clocksOut_transmit hwf settle v false) (List.forall_mem_singleton.2 hform)

/-- Data bytes are no commands. -/
theorem sendsForms_flatMap_data (hwf : p.wf = true) (settle : BitVec 16) (vs : List Byte) :
    SendsForms p (vs.flatMap (data p settle)) :=
  ⟨_, clocksOut_flatMap_data hwf settle vs, commandsOf_data vs ▸ List.forall_mem_nil _⟩

/-- On an 8-bit bus, `BEGIN`'s recovery sends the function-set byte. -/
theorem sendsForms_beginSequence (hwf : p.wf = true) (hb : p.bus8 = true) {r : Regs} (hr : RegsInv p r) :
    SendsForms p (beginSequence p r) := by
  refine sendsForms_commands (clocksOut_beginSequence hwf r) ?_
  simp [beginBytes, recoveryBytes, hb, isCommandForm_functionSetByte hr, isCommandForm_displayControlByte hr,
    isCommandForm_clearDisplayByte, isCommandForm_entryModeByte hr]

end

theorem exec_sendsForms {i : Instr} {s t : State} (hr : RegsInv s.params s.regs) (h : exec i s = .next t)
    (hbus : ∀ cols rows font, i = .lcdBegin cols rows font → s.params.bus8 = true) : SendsForms s.params t.seq := by
  obtain ⟨_, _, _, hacc⟩ := exec_accepts h
  obtain ⟨hwf, -⟩ := State.accept_next hacc
  cases i with
  | lcdBegin cols rows font =>
    rw [(execLcdBegin_next h).2]
    exact sendsForms_beginSequence hwf (hbus _ _ _ rfl) (exec_regsInv hr h)
  | clear | home =>
    rw [(State.accept_next h).2]
    exact (sendsForms_command hwf rfl _).append_delay _
  | setCursor col row =>
    rw [(State.accept_next h).2]
    exact sendsForms_command hwf (isCommandForm_setDdramAddrByte _) _
  | displayOn | displayOff | cursorOn | cursorOff | blinkOn | blinkOff =>
    rw [(State.accept_next h).2]
    exact sendsForms_command hwf (isCommandForm_displayControlByte (hr.writeDctrl _)) _
  | leftToRight | rightToLeft | autoscrollOn | autoscrollOff =>
    rw [(State.accept_next h).2]
    exact sendsForms_command hwf (isCommandForm_entryModeByte (hr.writeEmode _)) _
  | scrollLeft | scrollRight =>
    rw [(State.accept_next h).2]
    exact sendsForms_command hwf rfl _
  | createChar index pattern =>
    rw [(State.accept_next h).2]
    exact (sendsForms_command hwf (isCommandForm_setCgramAddrByte index) _).append (sendsForms_flatMap_data hwf _ _)
  | write value =>
    rw [(State.accept_next h).2]
    simpa using sendsForms_flatMap_data hwf s.regs.settle [value]
  | setRowOffsets | setSettleTime =>
    rw [(State.accept_next h).2]
    exact sendsForms_silent (clocksOut_nil _)
  | configBacklight pin mode =>
    obtain ⟨-, h⟩ | ⟨-, -, h⟩ := execConfigBacklight_next h <;> rw [(State.accept_next h).2]
    · exact sendsForms_silent (clocksOut_nil _)
    · exact sendsForms_silent (clocksOut_configBacklightSequence _ pin)
  | setBacklight level =>
    rw [(State.accept_next h).2]
    exact sendsForms_silent (clocksOut_setBacklightSequence hr.blPin level)

end Safety

/-- Settles O28: the command bytes of the sequence are those it clocks out with RS low, instruction by instruction. -/
theorem onlyTheCommandFormsAreSent : Obligations.OnlyTheCommandFormsAreSent := by
  intro i s t lv hr hlow h hbus
  obtain ⟨bytes, hbytes, hforms⟩ := exec_sendsForms hr h hbus
  rwa [commandBytes_of_clocksOut hbytes hlow]

end Sys2Proof
end

section
/-! Proofs of the statements of 40_bus_transport.md (O5, O7): each part of a transmit written out as its pin operations, and their
number. -/

namespace Sys2Proof

open Machine

namespace Safety

/-! ### The parts of a transmit, written out (R101, R104) -/

/-- The select step writes RS, and then RW low when RW is present. -/
theorem selectLines_eq (p : Params) (rs : Bool) :
    selectLines p rs = [.write p.rs rs] ++ if p.rw = pinNone then [] else [.write p.rw false] := by
  unfold selectLines Params.rwPins
  split <;> rfl

/-- Write `i` of a clock-out puts bit `i` on the data pin of index `i`. -/
theorem dataWrites_eq_map_range (p : Params) {w : Nat} (hw : w ≤ 8) (x : BitVec w) :
    dataWrites p w x = (List.range w).map fun i => .write (p.data.toList.getD i 0) (x.getLsbD i) := by
  refine List.ext_getElem (by simp [length_dataWrites p hw]) fun i hi _ => ?_
  have hi8 : i < 8 := (length_dataWrites p hw x ▸ hi).trans_le hw
  simp [dataWrites, hi8]

theorem clockOut_eq_map_range (p : Params) (settle : BitVec 16) {w : Nat} (hw : w ≤ 8) (x : BitVec w) :
    clockOut p settle w x =
      (List.range w).map (fun i => .write (p.data.toList.getD i 0) (x.getLsbD i)) ++ pulse p settle := by
  rw [clockOut, dataWrites_eq_map_range p hw]

/-- The four bits of a byte from bit `k` up, clocked out as a nibble. -/
theorem clockOut_extractLsb' (p : Params) (settle : BitVec 16) (k : Nat) (v : Byte) :
    clockOut p settle 4 (v.extractLsb' k 4) =
      (List.range 4).map (fun i => .write (p.data.toList.getD i 0) (v.getLsbD (k + i))) ++ pulse p settle := by
  have hbits : ∀ i ∈ List.range 4, (v.extractLsb' k 4).getLsbD i = v.getLsbD (k + i) := fun i hi => by
    simp [List.mem_range.1 hi]
  rw [clockOut_eq_map_range p settle (by decide)]
  congr 1
  exact List.map_congr_left fun i hi => by rw [hbits i hi]

theorem transmit_of_bus8 {p : Params} (hb : p.bus8 = true) (settle : BitVec 16) (v : Byte) (rs : Bool) :
    transmit p settle v rs = selectLines p rs ++ clockOut p settle 8 v := by
  rw [transmit, if_pos hb]

theorem transmit_of_bus4 {p : Params} (hb : p.bus8 = false) (settle : BitVec 16) (v : Byte) (rs : Bool) :
    transmit p settle v rs =
      selectLines p rs ++ (clockOut p settle 4 (v.extractLsb' 4 4) ++ clockOut p settle 4 (v.extractLsb' 0 4)) := by
  rw [transmit, if_neg (by simp [hb])]

/-! ### The number of operations (R108) -/

theorem length_selectLines (p : Params) (rs : Bool) :
    (selectLines p rs).length = 1 + if p.rw = pinNone then 0 else 1 := by
  rw [selectLines_eq]
  split <;> rfl

theorem length_delay {n : Micros} (hn : n ≠ 0) : (delay n).length = 1 := by
  rw [delay, if_neg hn, List.length_singleton]

theorem setWidth_settle_ne_zero {settle : BitVec 16} (hs : settle ≠ 0) : settle.setWidth 32 ≠ 0 := by
  bv_omega

section
variable {p : Params} {settle : BitVec 16} (ht : p.timing.tEHigh ≠ 0) (hs : settle ≠ 0)
include ht hs

theorem length_pulse : (pulse p settle).length = 4 := by
  simp [pulse, length_delay ht, length_delay (setWidth_settle_ne_zero hs)]

theorem length_clockOut {w : Nat} (hw : w ≤ 8) (x : BitVec w) : (clockOut p settle w x).length = w + 4 := by
  rw [clockOut, List.length_append, length_dataWrites p hw, length_pulse ht hs]

end

end Safety

open Safety

/-- Settles O5: a transmit is its select step and its clock-outs, and each of these is written out bit by bit. -/
theorem transmitEmitsThesePinOperations : Obligations.TransmitEmitsThesePinOperations := by
  intro p settle v rs wait strobe select out
  have hstrobe : pulse p settle = strobe := rfl
  refine ⟨fun hb => ?_, fun hb => ?_, rfl, rfl, fun x => ?_, hstrobe, fun n => rfl⟩
  · rw [transmit_of_bus8 hb, selectLines_eq, clockOut_eq_map_range p settle le_rfl, hstrobe, ← List.append_assoc]
    rfl
  · rw [transmit_of_bus4 hb, selectLines_eq, clockOut_extractLsb', clockOut_extractLsb', hstrobe]
    simp only [← List.append_assoc]
    rfl
  · rw [clockOut_eq_map_range p settle (by decide), hstrobe]
    rfl

/-- Settles O7: the select step has one operation, or two with RW, and each clock-out four beside its data writes. -/
theorem transmitOperationCount : Obligations.TransmitOperationCount := by
  intro p settle v rs ht hs
  cases hb : p.bus8
  · rw [transmit_of_bus4 hb, List.length_append, List.length_append, length_selectLines,
      length_clockOut ht hs (by decide), length_clockOut ht hs (by decide), if_neg Bool.false_ne_true]
    omega
  · rw [transmit_of_bus8 hb, List.length_append, length_selectLines, length_clockOut ht hs le_rfl, if_pos rfl]
    omega

end Sys2Proof
end

section
/-! Proofs of the statements of 41_initialization.md on `BEGIN`: the registers it leaves (O8), its sequence and what the bus shows of it
(O9), and the number of its operations (O10). -/

namespace Sys2Proof

open Machine Safety

namespace Machine

/-! ### The registers `BEGIN` leaves (R115, R116) -/

/-- FUNC: DL from the bus width; N from more than one row, and F only without N. -/
theorem writeFunc_functionFlags_func (r : Regs) (bus8 : Bool) (rows : Byte) (font5x10 : Bool) :
    (r.writeFunc bus8 (functionFlags bus8 rows font5x10)).func =
      (if bus8 then 0x10 else 0x00) + (if rows.toNat > 1 then 0x08 else if font5x10 then 0x04 else 0x00) := by
  simp only [Regs.writeFunc_func, functionFlags]
  by_cases hrows : rows.toNat > 1
  · rw [if_pos hrows, decide_eq_true hrows]
    revert bus8 font5x10
    decide
  · rw [if_neg hrows, decide_eq_false hrows]
    revert bus8 font5x10
    decide

/-- The last row offset is computed modulo 256 (R116). -/
theorem defaultRowOffsets_eq (cols : Byte) :
    defaultRowOffsets cols = ⟨0x00, 0x40, cols, BitVec.ofNat 8 (0x40 + cols.toNat)⟩ := by
  have hlast : 0x40 + cols = BitVec.ofNat 8 (0x40 + cols.toNat) := by bv_omega
  rw [defaultRowOffsets, hlast]

theorem beginRegs_eq (p : Params) (r : Regs) (cols rows : Byte) (font5x10 : Bool) :
    beginRegs p r cols rows font5x10 =
      { r with
        numLines := rows
        func := (if p.bus8 then 0x10 else 0x00) + (if rows.toNat > 1 then 0x08 else if font5x10 then 0x04 else 0x00)
        rowOff := ⟨0x00, 0x40, cols, BitVec.ofNat 8 (0x40 + cols.toNat)⟩
        dctrl := 0x04
        emode := 0x02
        curRow := 0 } := by
  rw [← writeFunc_functionFlags_func r, ← defaultRowOffsets_eq]
  rfl

/-- `BEGIN` on a well-formed block is accepted at every operand (R128). -/
theorem exec_lcdBegin {s : State} (hwf : s.params.wf = true) (cols rows : Byte) (font5x10 : Bool) :
    exec (.lcdBegin cols rows font5x10) s =
      .next { s with
        regs := beginRegs s.params s.regs cols rows font5x10
        seq := beginSequence s.params (beginRegs s.params s.regs cols rows font5x10)
        resp := Response.done, ustep := 0, phase := .busy } :=
  State.accept_eq s hwf _ _ _

end Machine

/-- Settles O8: the word is the sum of its fields, and the registers accepted are `beginRegs`, written out. -/
theorem beginWritesItsRegisters : Obligations.BeginWritesItsRegisters := by
  intro s cols rows font hwf
  refine ⟨requestWord_eq 0x01 font rows cols, _, exec_lcdBegin hwf cols rows font, ?_⟩
  rw [← beginRegs_eq]
  rfl

namespace Machine

/-! ### The operations of `BEGIN`, step by step (R117-R124) -/

theorem configurePins_eq (p : Params) :
    configurePins p =
      [.config p.rs .output] ++ (if p.rw = pinNone then [] else [.config p.rw .output]) ++ [.config p.e .output] ++
      (p.data.toList.take (if p.bus8 then 8 else 4)).map fun pin => .config pin .output := by
  unfold configurePins Params.busPins Params.rwPins Params.dataPins Params.width
  split <;> simp

theorem powerUpLevels_eq (p : Params) :
    powerUpLevels p =
      (if p.timing.tPowerup = 0 then [] else [.delay p.timing.tPowerup]) ++
      [.write p.rs false, .write p.e false] ++ if p.rw = pinNone then [] else [.write p.rw false] := by
  unfold powerUpLevels Params.rwPins delay
  congr 1
  split <;> rfl

/-- The function-set byte of steps 2 and 3 is made from the new FUNC (R120, R121). -/
theorem functionSetByte_beginRegs (p : Params) (r : Regs) (cols rows : Byte) (font5x10 : Bool) :
    functionSetByte (beginRegs p r cols rows font5x10) =
      0x20 + (if p.bus8 then 0x10 else 0x00) +
      (if rows.toNat > 1 then 0x08 else if font5x10 then 0x04 else 0x00) := by
  have hor : ∀ bus8 twoLines font : Bool,
      (0x20 : Byte) ||| ((if bus8 then 0x10 else 0x00) + if twoLines then 0x08 else if font then 0x04 else 0x00) =
        0x20 + (if bus8 then 0x10 else 0x00) + if twoLines then 0x08 else if font then 0x04 else 0x00 := by decide
  simpa only [functionSetByte, beginRegs_eq, decide_eq_true_eq] using hor p.bus8 (decide (rows.toNat > 1)) font5x10

theorem displayControlByte_beginRegs (p : Params) (r : Regs) (cols rows : Byte) (font5x10 : Bool) :
    displayControlByte (beginRegs p r cols rows font5x10) = 0x0C := by
  simp [displayControlByte, beginRegs_eq]

theorem entryModeByte_beginRegs (p : Params) (r : Regs) (cols rows : Byte) (font5x10 : Bool) :
    entryModeByte (beginRegs p r cols rows font5x10) = 0x06 := by
  simp [entryModeByte, beginRegs_eq]

/-- Steps 0 and 1, and then all that is sent to the controller. -/
theorem beginSequence_eq (p : Params) (r : Regs) :
    beginSequence p r =
      configurePins p ++ powerUpLevels p ++
      ((if p.bus8 then recovery8 p r else recovery4 p r.settle) ++
        command p r.settle (functionSetByte r) ++ command p r.settle (displayControlByte r) ++
        command p r.settle clearDisplayByte ++ delay p.timing.tClear ++ command p r.settle (entryModeByte r)) := by
  simp only [beginSequence, clearSequence, List.append_assoc]

end Machine

namespace Safety

/-! ### What commands show while RS and E are low (R65, R119-R124) -/

/-- From E and RS low to E and RS low, these operations show exactly these events. -/
def ShowsRsLow (p : Params) (ops : List PinOp) (events : List BusEvent) : Prop :=
  ∀ lv, ERsLow p lv → busEvents p lv ops = events ∧ ERsLow p (levelsAfter lv ops)

theorem ShowsRsLow.append {p : Params} {xs ys : List PinOp} {es fs : List BusEvent} (hx : ShowsRsLow p xs es)
    (hy : ShowsRsLow p ys fs) : ShowsRsLow p (xs ++ ys) (es ++ fs) := by
  intro lv hlow
  obtain ⟨hes, hmid⟩ := hx lv hlow
  obtain ⟨hfs, hend⟩ := hy _ hmid
  rw [busEvents_append, levelsAfter_append, hes, hfs]
  exact ⟨rfl, hend⟩

theorem showsRsLow_delay (p : Params) (n : Micros) : ShowsRsLow p (delay n) (waitEvents n.toNat) := by
  intro lv hlow
  rw [busEvents_delay, levelsAfter_delay, hlow.1]
  exact ⟨rfl, hlow⟩

section
variable {p : Params} (hwf : p.wf = true)
include hwf

theorem showsRsLow_nibble (hb : p.bus8 = false) (settle : BitVec 16) (x : Nibble) :
    ShowsRsLow p (clockOut p settle 4 x) (nibbleEvents settle false x) := by
  intro lv ⟨he, hrs⟩
  obtain ⟨-, hrsData, heData, -, -⟩ := Params.wf_pins hwf
  obtain ⟨hev, hkeep⟩ := nibble_on_bus hwf hb settle x lv he
  rw [hrs] at hev
  exact ⟨hev, (hkeep _ heData).trans he, (hkeep _ hrsData).trans hrs⟩

theorem showsRsLow_command (settle : BitVec 16) (v : Byte) :
    ShowsRsLow p (command p settle v) (byteEvents p settle false v) := by
  intro lv ⟨he, _⟩
  obtain ⟨-, hrsData, heData, -, -⟩ := Params.wf_pins hwf
  obtain ⟨-, hselRs, hselE⟩ := selectLines_on_bus hwf false lv
  obtain ⟨hev, hkeep⟩ := transmit_on_bus hwf settle v false lv he
  exact ⟨hev, (hkeep _ heData).trans (hselE.trans he), (hkeep _ hrsData).trans hselRs⟩

/-- Step 2 on either bus. -/
theorem showsRsLow_recovery (r : Regs) :
    ShowsRsLow p (if p.bus8 then recovery8 p r else recovery4 p r.settle)
      (if p.bus8 then
        byteEvents p r.settle false (functionSetByte r) ++ waitEvents p.timing.tInit8.t0.toNat ++
        byteEvents p r.settle false (functionSetByte r) ++ waitEvents p.timing.tInit8.t1.toNat ++
        byteEvents p r.settle false (functionSetByte r) ++ waitEvents p.timing.tInit8.t2.toNat
      else
        nibbleEvents r.settle false 0x3 ++ waitEvents p.timing.tInit4.t0.toNat ++
        nibbleEvents r.settle false 0x3 ++ waitEvents p.timing.tInit4.t1.toNat ++
        nibbleEvents r.settle false 0x3 ++ waitEvents p.timing.tInit4.t2.toNat ++
        nibbleEvents r.settle false 0x2) := by
  have hwait := showsRsLow_delay p
  split
  · have hcmd := showsRsLow_command hwf r.settle (functionSetByte r)
    exact ((((hcmd.append (hwait _)).append hcmd).append (hwait _)).append hcmd).append (hwait _)
  · next hb =>
    have hnibble := showsRsLow_nibble hwf (by simpa using hb) r.settle
    exact ((((((hnibble _).append (hwait _)).append (hnibble _)).append (hwait _)).append (hnibble _)).append
      (hwait _)).append (hnibble _)

end

end Safety

/-- Settles O9: steps 0 and 1 written out, and the rest shown part by part, since every part leaves RS and E low. -/
theorem beginRunsTheInitializationSequence : Obligations.BeginRunsTheInitializationSequence := by
  refine ⟨fun s cols rows font hwf => ?_, rfl, rfl, rfl⟩
  refine ⟨_, _, exec_lcdBegin hwf cols rows font, rfl, rfl, ?_, rfl, fun lv hrs he => ?_⟩
  · refine (beginSequence_eq _ _).trans ?_
    rw [displayControlByte_beginRegs, entryModeByte_beginRegs, configurePins_eq, powerUpLevels_eq,
      ← functionSetByte_beginRegs s.params s.regs cols rows font]
    refine congrArg₂ (· ++ ·) ?_ rfl
    simp only [List.append_assoc]
  · rw [← functionSetByte_beginRegs s.params s.regs cols rows font]
    have hcmd := showsRsLow_command hwf s.regs.settle
    have hrecovery := showsRsLow_recovery hwf (beginRegs s.params s.regs cols rows font)
    exact ((((((hrecovery.append (hcmd _)).append (hcmd _)).append (hcmd _)).append (showsRsLow_delay _ _)).append
      (hcmd _)) lv ⟨he, hrs⟩).1

namespace Safety

/-! ### The number of operations (R126) -/

theorem length_rwPins (p : Params) : p.rwPins.length = if p.rw = pinNone then 0 else 1 := by
  unfold Params.rwPins
  split <;> rfl

theorem length_configurePins (p : Params) : (configurePins p).length = 2 + p.rwPins.length + p.width := by
  simp only [configurePins, Params.busPins, List.length_map, List.length_append, List.length_cons, p.dataPins_length]
  omega

theorem length_powerUpLevels {p : Params} (ht : p.timing.tPowerup ≠ 0) :
    (powerUpLevels p).length = 3 + p.rwPins.length := by
  simp only [powerUpLevels, List.length_append, List.length_map, length_delay ht, List.length_cons, List.length_nil]

section
variable {p : Params} (ht : p.timing = Timing.default)
include ht

theorem length_command_default {settle : BitVec 16} (hs : settle ≠ 0) (v : Byte) :
    (command p settle v).length = (if p.bus8 then 13 else 17) + p.rwPins.length := by
  rw [length_rwPins]
  exact transmitOperationCount p settle v false (by simp [ht, Timing.default]) hs

/-- The third wait of R120 is 0 by default, and so no operation. -/
theorem length_recovery8_default {r : Regs} (hb : p.bus8 = true) (hs : r.settle ≠ 0) :
    (recovery8 p r).length = 41 + 3 * p.rwPins.length := by
  obtain ⟨h0, h1, h2⟩ : (delay p.timing.tInit8.t0).length = 1 ∧ (delay p.timing.tInit8.t1).length = 1 ∧
      (delay p.timing.tInit8.t2).length = 0 := by
    rw [ht]
    exact ⟨rfl, rfl, rfl⟩
  simp only [recovery8, List.length_append, length_command_default ht hs, if_pos hb, h0, h1, h2]
  omega

theorem length_recovery4_default {settle : BitVec 16} (hs : settle ≠ 0) : (recovery4 p settle).length = 35 := by
  have hE : p.timing.tEHigh ≠ 0 := by simp [ht, Timing.default]
  obtain ⟨h0, h1, h2⟩ : (delay p.timing.tInit4.t0).length = 1 ∧ (delay p.timing.tInit4.t1).length = 1 ∧
      (delay p.timing.tInit4.t2).length = 1 := by
    rw [ht]
    exact ⟨rfl, rfl, rfl⟩
  simp only [recovery4, List.length_append, length_clockOut hE hs (by decide : 4 ≤ 8), h0, h1, h2]

theorem length_clearSequence_default {settle : BitVec 16} (hs : settle ≠ 0) :
    (clearSequence p settle).length = (if p.bus8 then 13 else 17) + p.rwPins.length + 1 := by
  rw [clearSequence, List.length_append, length_command_default ht hs, length_delay (by simp [ht, Timing.default])]

/-- A present RW adds a CONFIG, a level write, and a write in every command: four, and three more in the 8-bit recovery. -/
theorem length_beginSequence_default {r : Regs} (hs : r.settle ≠ 0) :
    (beginSequence p r).length = if p.bus8 then 107 + 9 * p.rwPins.length else 113 + 6 * p.rwPins.length := by
  have hpower : p.timing.tPowerup ≠ 0 := by simp [ht, Timing.default]
  simp only [beginSequence, List.length_append, length_configurePins, length_powerUpLevels hpower,
    length_command_default ht hs, length_clearSequence_default ht hs, Params.width]
  cases hb : p.bus8
  · simp only [Bool.false_eq_true, if_false, length_recovery4_default ht hs]
    omega
  · simp only [if_true, length_recovery8_default ht hb hs]
    omega

end

end Safety

/-- Settles O10: the count of each step, summed, for each bus width with RW and without. -/
theorem beginOperationCount : Obligations.BeginOperationCount := by
  intro s t cols rows font ht hs h
  obtain ⟨-, rfl⟩ := State.accept_next h
  refine (length_beginSequence_default (r := beginRegs s.params s.regs cols rows font) ht hs).trans ?_
  rw [length_rwPins]
  cases s.params.bus8 <;> by_cases hrw : s.params.rw = pinNone <;> simp [hrw]

end Sys2Proof
end

section
/-! Proofs of the statements of 42_command_encoder.md on the requests that send fixed and addressed bytes: clear and home (O11), cursor
placement (O12, O13), scrolls (O18), glyphs (O19) and characters (O20). -/

namespace Sys2Proof

open Machine Safety

/-- The word of a request other than `BEGIN`: `f` is 0 (R73, R89). -/
theorem requestWord_of_not_f (op : BitVec 5) (b a : Byte) :
    requestWord op false b a = (op.setWidth 32 <<< 27) ||| (b.setWidth 32 <<< 8) ||| a.setWidth 32 := by
  simp [requestWord_eq]

/-- The word of a request with one operand, `a` (R73, R89). -/
theorem requestWord_only_a (op : BitVec 5) (a : Byte) :
    requestWord op false 0 a = (op.setWidth 32 <<< 27) ||| a.setWidth 32 := by
  simp [requestWord_of_not_f]

namespace Safety

/-! ### A command and what follows it on the bus (R103) -/

/-- What follows a command is shown after its byte, since a command leaves E low. -/
theorem busEvents_command_append {p : Params} (hwf : p.wf = true) {ops : List PinOp} {events : List BusEvent}
    (hops : ∀ lv : Levels, lv p.e = false → busEvents p lv ops = events) (settle : BitVec 16) (v : Byte) (lv : Levels)
    (hlow : lv p.e = false) :
    busEvents p lv (command p settle v ++ ops) = byteEvents p settle false v ++ events := by
  obtain ⟨hshown, he, -⟩ := transmitClocksOutTheByte p settle v false lv hwf hlow
  rw [busEvents_append]
  exact congrArg₂ (· ++ ·) hshown (hops _ he)

theorem busEvents_command_delay {p : Params} (hwf : p.wf = true) (settle : BitVec 16) (v : Byte) (n : Micros) (lv : Levels)
    (hlow : lv p.e = false) :
    busEvents p lv (command p settle v ++ delay n) = byteEvents p settle false v ++ waitEvents n.toNat :=
  busEvents_command_append hwf (fun lv' hlow' => (busEvents_delay p lv' n).trans (by rw [hlow']; rfl)) settle v lv hlow

/-- A well-formed block accepts, and sends the sequence it accepts (R22). -/
theorem accept_sends {s : State} (hwf : s.params.wf = true) (regs : Regs) (resp : Response) {seq : List PinOp}
    {events : List BusEvent} (hshown : ∀ lv : Levels, lv s.params.e = false → busEvents s.params lv seq = events) :
    ∃ t, s.accept regs seq resp = .next t ∧ Started s t regs resp ∧ Sends s t seq events :=
  ⟨_, State.accept_eq s hwf regs seq resp, rfl, rfl, hshown⟩

/-- A well-formed block accepts a transmit of one byte, and the bus shows that byte. -/
theorem accept_sends_transmit {s : State} (hwf : s.params.wf = true) (regs : Regs) (resp : Response) (v : Byte) (rs : Bool) :
    ∃ t, s.accept regs (transmit s.params s.regs.settle v rs) resp = .next t ∧ Started s t regs resp ∧
      Sends s t (transmit s.params s.regs.settle v rs) (byteEvents s.params s.regs.settle rs v) :=
  accept_sends hwf regs resp fun lv hlow => (transmitClocksOutTheByte s.params s.regs.settle v rs lv hwf hlow).1

end Safety

/-- Settles O11: each accepts its command followed by its delay. -/
theorem clearAndHomeSendTheirByteAndWait : Obligations.ClearAndHomeSendTheirByteAndWait := by
  intro s hwf
  refine ⟨⟨by decide, ?_⟩, ⟨by decide, ?_⟩, rfl, rfl⟩
  · exact accept_sends hwf _ Response.done (busEvents_command_delay hwf s.regs.settle clearDisplayByte s.params.timing.tClear)
  · exact accept_sends hwf _ Response.done (busEvents_command_delay hwf s.regs.settle returnHomeByte s.params.timing.tHome)

/-- Settles O18: each accepts its one command, and the registers as they are. -/
theorem scrollSendsAConstantByte : Obligations.ScrollSendsAConstantByte := by
  intro s hwf
  refine ⟨⟨by decide, ?_⟩, ⟨by decide, ?_⟩⟩
  · exact accept_sends_transmit hwf s.regs Response.done scrollLeftByte false
  · exact accept_sends_transmit hwf s.regs Response.done scrollRightByte false

/-- Settles O20: `WRITE` accepts one data transmit of its operand. -/
theorem writeSendsTheByteAndCountsOne : Obligations.WriteSendsTheByteAndCountsOne := by
  intro s v hwf
  exact ⟨requestWord_only_a 0x12 v, accept_sends_transmit hwf s.regs Response.oneByte v true⟩

namespace Machine

/-! ### The address of a glyph (R144) -/

/-- The masked index leaves bit 6 to the command, so ORing is adding. -/
theorem setCgramAddrByte_cgramAddress (index : Byte) :
    setCgramAddrByte (cgramAddress index) = BitVec.ofNat 8 (0x40 + 8 * (index.toNat % 8)) := by
  unfold setCgramAddrByte cgramAddress
  revert index
  decide

end Machine

/-- Settles O19: the address command, and then a run of data writes. -/
theorem createCharSendsTheGlyph : Obligations.CreateCharSendsTheGlyph := by
  intro s index g hwf
  refine ⟨requestWord_only_a 0x11 index, rfl, ?_⟩
  rw [← setCgramAddrByte_cgramAddress]
  exact accept_sends hwf s.regs Response.done
    (busEvents_command_append hwf (busEvents_flatMap_data hwf s.regs.settle (patternBytes g)) s.regs.settle _)

namespace Machine

/-! ### The row of a cursor placement (R134, R135) -/

theorem rowOffset_ofNat (t : RowOffsets) {r : Nat} (hr : r ≤ 3) :
    rowOffset t (BitVec.ofNat 2 r) = [t.o0, t.o1, t.o2, t.o3].getD r 0 := by
  interval_cases r <;> rfl

theorem ddramAddress_eq (t : RowOffsets) (r : BitVec 2) (col : Byte) :
    ddramAddress t r col = BitVec.ofNat 8 ((rowOffset t r).toNat + col.toNat) := by
  unfold ddramAddress
  bv_omega

/-- Every row from the last usable one on is clamped to it. -/
theorem clampRow_of_le {n row : Byte} (h : usableLines n - 1 ≤ row.toNat) :
    clampRow n row = BitVec.ofNat 2 (usableLines n - 1) := by
  rw [clampRow, min_eq_right h]

/-- Two rows from the last usable one on are one and the same to `SETCURSOR`. -/
theorem exec_setCursor_eq_of_le {s : State} {row row' : Byte} (h : usableLines s.regs.numLines - 1 ≤ row.toNat)
    (h' : usableLines s.regs.numLines - 1 ≤ row'.toNat) (col : Byte) :
    exec (.setCursor col row) s = exec (.setCursor col row') s := by
  simp only [exec, execSetCursor, clampRow_of_le h, clampRow_of_le h']

end Machine

/-- Settles O12: the clamped row is at most 3, so nothing of it is lost in the two bits of CUR_ROW. -/
theorem setCursorAddressesTheClampedRow : Obligations.SetCursorAddressesTheClampedRow := by
  intro s col row hwf r o addr
  have hr : r ≤ 3 := (min_le_right _ _).trans (Nat.sub_le_sub_right (min_le_right _ 4) 1)
  have haddr : ddramAddress o (clampRow s.regs.numLines row) col = addr := by
    rw [ddramAddress_eq]
    exact congrArg (fun x : Byte => BitVec.ofNat 8 (x.toNat + col.toNat)) (rowOffset_ofNat o hr)
  refine ⟨requestWord_of_not_f 0x04 row col, hr, ?_⟩
  rw [← haddr]
  exact accept_sends_transmit hwf _ Response.done _ false

/-- Settles O13: in each clause both rows lie at or beyond the last usable one. -/
theorem rowsBeyondTheGeometryAreTheLastRow : Obligations.RowsBeyondTheGeometryAreTheLastRow := by
  intro s col row
  refine ⟨fun h1 h4 hrow => ?_, fun h4 hrow => ?_, fun h0 => ?_⟩
  · have hlast : (s.regs.numLines - 1).toNat = s.regs.numLines.toNat - 1 := by bv_omega
    apply exec_setCursor_eq_of_le <;> unfold usableLines <;> omega
  · have hlast : (3 : Byte).toNat = 3 := rfl
    apply exec_setCursor_eq_of_le <;> unfold usableLines <;> omega
  · have hlast : usableLines s.regs.numLines - 1 = 0 := by rw [h0]; rfl
    exact exec_setCursor_eq_of_le (hlast ▸ Nat.zero_le _) (hlast ▸ Nat.zero_le _) col

end Sys2Proof
end

section
/-! Proofs of the statements of 42_command_encoder.md on toggles: one toggle (O14, O15), two of different fields (O17), and any list of
them (O16). All four rest on `exec_toggle`: what a toggle writes and sends, in terms of the flags. -/

namespace Sys2Proof

open Machine Safety

namespace Machine

/-! ### The flag registers, bit by bit (R25, R26) -/

/-- A write of DCTRL keeps the three flags alone. -/
theorem writeDctrl_eq (r : Regs) (v : Byte) :
    r.writeDctrl v = { r with dctrl := dctrlOf (v.getLsbD 2) (v.getLsbD 1) (v.getLsbD 0) } := by
  have hbits : ∀ v : Byte, v &&& (flagD ||| flagC ||| flagB) = dctrlOf (v.getLsbD 2) (v.getLsbD 1) (v.getLsbD 0) := by decide
  rw [Regs.writeDctrl, hbits]

/-- A write of EMODE keeps the two flags alone. -/
theorem writeEmode_eq (r : Regs) (v : Byte) :
    r.writeEmode v = { r with emode := emodeOf (v.getLsbD 1) (v.getLsbD 0) } := by
  have hbits : ∀ v : Byte, v &&& (flagID ||| flagS) = emodeOf (v.getLsbD 1) (v.getLsbD 0) := by decide
  rw [Regs.writeEmode, hbits]

/-- The re-send of DCTRL, flag by flag (R130). -/
theorem State.resendDisplayControl_eq (s : State) (v : Byte) :
    s.resendDisplayControl v =
      s.acceptCommand { s.regs with dctrl := dctrlOf (v.getLsbD 2) (v.getLsbD 1) (v.getLsbD 0) }
        (0x08 ||| dctrlOf (v.getLsbD 2) (v.getLsbD 1) (v.getLsbD 0)) := by
  simp only [State.resendDisplayControl, displayControlByte, writeDctrl_eq]

/-- The re-send of EMODE, flag by flag (R130). -/
theorem State.resendEntryMode_eq (s : State) (v : Byte) :
    s.resendEntryMode v =
      s.acceptCommand { s.regs with emode := emodeOf (v.getLsbD 1) (v.getLsbD 0) }
        (0x04 ||| emodeOf (v.getLsbD 1) (v.getLsbD 0)) := by
  simp only [State.resendEntryMode, entryModeByte, writeEmode_eq]

end Machine

namespace Safety

/-! ### The registers as flags -/

/-- DCTRL with these flags (R25). -/
def Flags.dctrl (f : Flags) : Byte := dctrlOf f.d f.c f.b

/-- EMODE with these flags (R26). -/
def Flags.emode (f : Flags) : Byte := emodeOf f.id f.s

/-- The registers with both flag registers holding these flags. -/
def Flags.store (f : Flags) (r : Regs) : Regs := { r with dctrl := f.dctrl, emode := f.emode }

/-- The registers a toggle leaves: its one register holds all its flags, after the change; the other stays. -/
def Toggle.regs (x : Toggle) (r : Regs) : Regs :=
  if x.field < 3 then { r with dctrl := (x.apply (flagsOf r)).dctrl } else { r with emode := (x.apply (flagsOf r)).emode }

theorem Toggle.regs_of_display {x : Toggle} (h : x.field < 3) (r : Regs) :
    x.regs r = { r with dctrl := (x.apply (flagsOf r)).dctrl } := if_pos h

theorem Toggle.regs_of_entry {x : Toggle} (h : ¬x.field < 3) (r : Regs) :
    x.regs r = { r with emode := (x.apply (flagsOf r)).emode } := if_neg h

theorem dctrlOf_bits (d c b : Bool) :
    (dctrlOf d c b).getLsbD 2 = d ∧ (dctrlOf d c b).getLsbD 1 = c ∧ (dctrlOf d c b).getLsbD 0 = b := by
  revert d c b
  decide

theorem emodeOf_bits (id s : Bool) : (emodeOf id s).getLsbD 1 = id ∧ (emodeOf id s).getLsbD 0 = s := by
  revert id s
  decide

/-- The flags stored are the flags read. -/
theorem flagsOf_store (f : Flags) (r : Regs) : flagsOf (f.store r) = f := by
  obtain ⟨hd, hc, hb⟩ := dctrlOf_bits f.d f.c f.b
  obtain ⟨hid, hs⟩ := emodeOf_bits f.id f.s
  simp only [flagsOf, Flags.store, Flags.dctrl, Flags.emode, hd, hc, hb, hid, hs]

/-- Legal registers hold their flags and nothing else in DCTRL and EMODE (R25, R26). -/
theorem store_flagsOf {p : Params} {r : Regs} (h : RegsInv p r) : (flagsOf r).store r = r := by
  have hd : ∀ v : Byte, v &&& 0xF8 = 0 → dctrlOf (v.getLsbD 2) (v.getLsbD 1) (v.getLsbD 0) = v := by decide
  have he : ∀ v : Byte, v &&& 0xFC = 0 → emodeOf (v.getLsbD 1) (v.getLsbD 0) = v := by decide
  simp only [Flags.store, Flags.dctrl, Flags.emode, flagsOf, hd _ h.dctrl, he _ h.emode]

/-! ### One toggle (R130) -/

/-- The value a toggle writes to its field. -/
def Toggle.on : Toggle → Bool
  | .displayOn | .cursorOn | .blinkOn | .leftToRight | .autoscrollOn => true
  | .displayOff | .cursorOff | .blinkOff | .rightToLeft | .autoscrollOff => false

/-- A toggle writes its value to the flag of its field, and keeps the four others. -/
theorem Toggle.apply_eq (x : Toggle) (f : Flags) :
    x.apply f =
      { d := if x.field = 0 then x.on else f.d
        c := if x.field = 1 then x.on else f.c
        b := if x.field = 2 then x.on else f.b
        id := if x.field = 3 then x.on else f.id
        s := if x.field = 4 then x.on else f.s } := by
  cases x <;> rfl

/-- A display-control toggle changes no flag of EMODE. -/
theorem Toggle.apply_entry_flags {x : Toggle} (h : x.field < 3) (f : Flags) :
    (x.apply f).id = f.id ∧ (x.apply f).s = f.s := by
  rw [Toggle.apply_eq]
  exact ⟨if_neg (by omega), if_neg (by omega)⟩

/-- An entry-mode toggle changes no flag of DCTRL. -/
theorem Toggle.apply_display_flags {x : Toggle} (h : ¬x.field < 3) (f : Flags) :
    (x.apply f).d = f.d ∧ (x.apply f).c = f.c ∧ (x.apply f).b = f.b := by
  rw [Toggle.apply_eq]
  exact ⟨if_neg (by omega), if_neg (by omega), if_neg (by omega)⟩

theorem Toggle.apply_emode {x : Toggle} (h : x.field < 3) (f : Flags) : (x.apply f).emode = f.emode := by
  obtain ⟨hid, hs⟩ := Toggle.apply_entry_flags h f
  rw [Flags.emode, hid, hs, Flags.emode]

theorem Toggle.apply_dctrl {x : Toggle} (h : ¬x.field < 3) (f : Flags) : (x.apply f).dctrl = f.dctrl := by
  obtain ⟨hd, hc, hb⟩ := Toggle.apply_display_flags h f
  rw [Flags.dctrl, hd, hc, hb, Flags.dctrl]

/-- Every toggle accepts its register with all the flags then true, and one command that sends it (R136-R141, R150-R153). -/
theorem exec_toggle (x : Toggle) (s : State) :
    exec x.instr s =
      s.accept (x.regs s.regs) (command s.params s.regs.settle (x.byte (x.apply (flagsOf s.regs)))) Response.done := by
  cases x
  case displayOn | displayOff | cursorOn | cursorOff | blinkOn | blinkOff =>
    refine (State.resendDisplayControl_eq s _).trans ?_
    simp [State.acceptCommand, setFlag, clearFlag, flagD, flagC, flagB, Toggle.regs, Toggle.byte, Toggle.field, Toggle.apply,
      Flags.dctrl, flagsOf]
  case leftToRight | rightToLeft | autoscrollOn | autoscrollOff =>
    refine (State.resendEntryMode_eq s _).trans ?_
    simp [State.acceptCommand, setFlag, clearFlag, flagID, flagS, Toggle.regs, Toggle.byte, Toggle.field, Toggle.apply,
      Flags.emode, flagsOf]

/-- A toggle on a well-formed block is accepted, and the bus shows its byte. -/
theorem toggle_sends {s : State} (hwf : s.params.wf = true) (x : Toggle) :
    ∃ t, exec x.instr s = .next t ∧ Started s t (x.regs s.regs) Response.done ∧
      Sends s t (command s.params s.regs.settle (x.byte (x.apply (flagsOf s.regs))))
        (byteEvents s.params s.regs.settle false (x.byte (x.apply (flagsOf s.regs)))) := by
  rw [exec_toggle]
  exact accept_sends_transmit hwf _ _ _ false

end Safety

/-- Settles O14: the six toggles of DCTRL, each by `toggle_sends`. -/
theorem displayTogglesWriteOneFieldAndResend : Obligations.DisplayTogglesWriteOneFieldAndResend := by
  intro s hwf
  exact ⟨⟨by decide, toggle_sends hwf .displayOn⟩, ⟨by decide, toggle_sends hwf .displayOff⟩,
    ⟨by decide, toggle_sends hwf .cursorOn⟩, ⟨by decide, toggle_sends hwf .cursorOff⟩,
    ⟨by decide, toggle_sends hwf .blinkOn⟩, ⟨by decide, toggle_sends hwf .blinkOff⟩⟩

/-- Settles O15: the four toggles of EMODE, each by `toggle_sends`. -/
theorem entryTogglesWriteOneFieldAndResend : Obligations.EntryTogglesWriteOneFieldAndResend := by
  intro s hwf
  exact ⟨⟨by decide, toggle_sends hwf .leftToRight⟩, ⟨by decide, toggle_sends hwf .rightToLeft⟩,
    ⟨by decide, toggle_sends hwf .autoscrollOn⟩, ⟨by decide, toggle_sends hwf .autoscrollOff⟩⟩

namespace Safety

/-! ### Two toggles (R147) -/

theorem exec_toggle_regs {x : Toggle} {s t : State} (h : exec x.instr s = .next t) : t.regs = x.regs s.regs := by
  rw [exec_toggle] at h
  rw [(State.accept_next h).2]

/-- Changes of two different flags commute. -/
theorem Toggle.apply_comm {x y : Toggle} (h : x.field ≠ y.field) (f : Flags) : y.apply (x.apply f) = x.apply (y.apply f) := by
  have hflag : ∀ (n : Nat) (old : Bool),
      (if y.field = n then y.on else if x.field = n then x.on else old) =
        if x.field = n then x.on else if y.field = n then y.on else old := by
    intro n old
    by_cases hx : x.field = n
    · rw [if_pos hx, if_neg fun hy => h (hx.trans hy.symm), if_pos hx]
    · rw [if_neg hx, if_neg hx]
  rw [Toggle.apply_eq y, Toggle.apply_eq x (y.apply f), Toggle.apply_eq x f, Toggle.apply_eq y f]
  congr 1 <;> exact hflag _ _

/-- From any registers, a toggle changes its one flag, whatever else DCTRL and EMODE held. -/
theorem Toggle.flagsOf_regs (x : Toggle) (r : Regs) : flagsOf (x.regs r) = x.apply (flagsOf r) := by
  by_cases h : x.field < 3
  · obtain ⟨hid, hs⟩ := Toggle.apply_entry_flags h (flagsOf r)
    have hread : flagsOf (x.regs r) = { x.apply (flagsOf r) with id := (flagsOf r).id, s := (flagsOf r).s } := by
      simp only [flagsOf, Toggle.regs_of_display h, Flags.dctrl, dctrlOf_bits]
    rw [hread, ← hid, ← hs]
  · obtain ⟨hd, hc, hb⟩ := Toggle.apply_display_flags h (flagsOf r)
    have hread : flagsOf (x.regs r) =
        { x.apply (flagsOf r) with d := (flagsOf r).d, c := (flagsOf r).c, b := (flagsOf r).b } := by
      simp only [flagsOf, Toggle.regs_of_entry h, Flags.emode, emodeOf_bits]
    rw [hread, ← hd, ← hc, ← hb]

/-- Toggles of different registers: neither reads or writes what the other writes. -/
theorem Toggle.regs_comm_of_display_entry {x y : Toggle} (hx : x.field < 3) (hy : ¬y.field < 3) (r : Regs) :
    y.regs (x.regs r) = x.regs (y.regs r) := by
  have hflags : y.apply (x.apply (flagsOf r)) = x.apply (y.apply (flagsOf r)) :=
    Toggle.apply_comm (fun h => hy (h ▸ hx)) (flagsOf r)
  have hemode : (y.apply (x.apply (flagsOf r))).emode = (y.apply (flagsOf r)).emode := by
    rw [hflags, Toggle.apply_emode hx]
  have hdctrl : (x.apply (y.apply (flagsOf r))).dctrl = (x.apply (flagsOf r)).dctrl := by
    rw [← hflags, Toggle.apply_dctrl hy]
  rw [Toggle.regs_of_entry hy (x.regs r), Toggle.regs_of_display hx (y.regs r), Toggle.flagsOf_regs, Toggle.flagsOf_regs,
    hemode, hdctrl, Toggle.regs_of_display hx r, Toggle.regs_of_entry hy r]

theorem Toggle.regs_comm {x y : Toggle} (h : x.field ≠ y.field) (r : Regs) : y.regs (x.regs r) = x.regs (y.regs r) := by
  have hflags := Toggle.apply_comm h (flagsOf r)
  by_cases hx : x.field < 3 <;> by_cases hy : y.field < 3
  · rw [Toggle.regs_of_display hy (x.regs r), Toggle.regs_of_display hx (y.regs r), Toggle.flagsOf_regs,
      Toggle.flagsOf_regs, hflags, Toggle.regs_of_display hx r, Toggle.regs_of_display hy r]
  · exact Toggle.regs_comm_of_display_entry hx hy r
  · exact (Toggle.regs_comm_of_display_entry hy hx r).symm
  · rw [Toggle.regs_of_entry hy (x.regs r), Toggle.regs_of_entry hx (y.regs r), Toggle.flagsOf_regs,
      Toggle.flagsOf_regs, hflags, Toggle.regs_of_entry hx r, Toggle.regs_of_entry hy r]

end Safety

/-- Settles O17: each order leaves `Toggle.regs` of the one after the other, and these commute. -/
theorem togglesOfDifferentFieldsCommute : Obligations.TogglesOfDifferentFieldsCommute := by
  intro s t1 t2 u1 u2 x y hxy hx hyx hy hxy'
  rw [exec_toggle_regs hyx, exec_toggle_regs hx, exec_toggle_regs hxy', exec_toggle_regs hy]
  exact Toggle.regs_comm hxy s.regs

namespace Safety

/-! ### A list of toggles (R130) -/

/-- On registers that hold their flags alone, a toggle leaves registers that do. -/
theorem Toggle.regs_store (x : Toggle) (f : Flags) (r : Regs) : x.regs (f.store r) = (x.apply f).store r := by
  by_cases h : x.field < 3
  · rw [Toggle.regs_of_display h, flagsOf_store, Flags.store, Flags.store, Toggle.apply_emode h]
  · rw [Toggle.regs_of_entry h, flagsOf_store, Flags.store, Flags.store, Toggle.apply_dctrl h]

/-- One toggle, from acceptance to response (R22, R62). -/
theorem serve_toggle {s : State} (hwf : s.params.wf = true) (x : Toggle) :
    ∃ t, serve (encode x.instr) s = .next t ∧ t.params = s.params ∧ t.regs = x.regs s.regs ∧
      t.trace = s.trace ++ command s.params s.regs.settle (x.byte (x.apply (flagsOf s.regs))) := by
  have hacc : acceptRequest (encode x.instr) s = _ :=
    ((acceptRequest_of_ok (decodeOfEncodeGivesBackTheInstruction x.instr) s).trans (exec_toggle x _)).trans
      (State.accept_eq (s.latch (encode x.instr)) hwf _ _ _)
  exact ⟨_, serve_of_acceptRequest hacc, rfl, rfl, rfl⟩

/-- Toggles served from registers that hold the flags `f`: the flags they leave, and what they show. -/
theorem serveAll_toggles {s : State} (hwf : s.params.wf = true) {f : Flags} {r : Regs} (hregs : s.regs = f.store r)
    (ts : List Toggle) :
    ∃ u, serveAll (ts.map fun t => encode t.instr) s = .next u ∧ u.regs = (flagsAfter f ts).store r ∧
      ∃ ops, u.trace = s.trace ++ ops ∧
        ∀ lv : Levels, lv s.params.e = false → busEvents s.params lv ops = toggleEvents s.params r.settle f ts := by
  induction ts generalizing s f with
  | nil => exact ⟨s, rfl, hregs, [], (List.append_nil _).symm, fun _ _ => rfl⟩
  | cons x ts ih =>
    obtain ⟨t, ht, hparams, htregs, htrace⟩ := serve_toggle hwf x
    rw [hregs, Toggle.regs_store] at htregs
    rw [hregs, flagsOf_store] at htrace
    obtain ⟨u, hu, huregs, ops, hutrace, hshown⟩ := ih (hparams ▸ hwf) htregs
    rw [hparams] at hshown
    refine ⟨u, (serveAll_cons ht _).trans hu, huregs, _, ?_, busEvents_command_append hwf hshown r.settle (x.byte (x.apply f))⟩
    rw [hutrace, htrace, List.append_assoc]
    rfl

end Safety

/-- Settles O16: legal registers hold their flags alone, and every toggle keeps this and sends them, by induction on the list. -/
theorem toggleRunsSendEveryRegisterInFull : Obligations.ToggleRunsSendEveryRegisterInFull := by
  intro s ts hwf hr
  exact serveAll_toggles hwf (store_flagsOf hr).symm ts

end Sys2Proof
end

section
/-! Proofs of the statements of 43_backlight_config.md on single requests: the two configuration requests (O22), and the two of the
backlight (O23, O24). -/

namespace Sys2Proof

open Machine Safety

/-! ### The operands in the request (R73, R75) -/

/-- The two bytes of a 16-bit operand, put together again in the low half of the word. -/
theorem setWidth_bytes (us : BitVec 16) :
    ((us.extractLsb' 8 8).setWidth 32 <<< 8) ||| (us.extractLsb' 0 8).setWidth 32 = us.setWidth 32 := by
  apply BitVec.eq_of_getLsbD_eq
  intro i hi
  simp only [BitVec.getLsbD_or, BitVec.getLsbD_shiftLeft, BitVec.getLsbD_setWidth, BitVec.getLsbD_extractLsb']
  grind

/-- The payload of four bytes, the upper half 0. -/
theorem payloadOf_four_eq (b0 b1 b2 b3 : Byte) :
    payloadOf ⟨b0, b1, b2, b3, 0, 0, 0, 0⟩ = 0#32 ++ (b3 ++ b2 ++ b1 ++ b0) := by
  apply BitVec.eq_of_getLsbD_eq
  intro i hi
  rw [payloadOf_bit]
  simp only [BitVec.getLsbD_append]
  grind

namespace Machine

/-! ### What the configuration and backlight requests store and emit (R166-R171) -/

theorem clampSettle_eq (us : BitVec 16) : clampSettle us = if us = 0 then 1 else us := by
  apply BitVec.eq_of_toNat_eq
  rw [clampSettle_toNat]
  split
  · next h => rw [h]; rfl
  · next h =>
    have hpos : 1 ≤ us.toNat := Nat.one_le_iff_ne_zero.2 fun h0 => h (BitVec.eq_of_toNat_eq h0)
    exact max_eq_left hpos

theorem execConfigBacklight_of_bus_pin {pin : PinId} {mode : BitVec 2} {s : State} (hwf : s.params.wf = true)
    (hm : mode ≠ 3) (hpin : pin ∈ s.params.busPins) : execConfigBacklight pin mode s = .refused .backlightPinOnBus := by
  rw [execConfigBacklight, if_neg hm, if_pos ⟨hwf, hpin⟩]

theorem setBacklightSequence_of_absent {r : Regs} (hpin : r.blPin = pinNone) (level : Byte) :
    setBacklightSequence r level = [] := if_pos hpin

section
variable {r : Regs} (hpin : r.blPin ≠ pinNone)
include hpin

theorem setBacklightSequence_of_normal (hm : r.blMode = 0) (level : Byte) :
    setBacklightSequence r level = [.write r.blPin (decide (level.toNat > 0))] := by
  simp [setBacklightSequence, hpin, hm, Nat.pos_iff_ne_zero, ← BitVec.toNat_inj]

theorem setBacklightSequence_of_inverted (hm : r.blMode = 1) (level : Byte) :
    setBacklightSequence r level = [.write r.blPin (decide (level.toNat = 0))] := by
  simp [setBacklightSequence, hpin, hm, ← BitVec.toNat_inj]

theorem setBacklightSequence_of_pwm (hm : r.blMode = 2) (level : Byte) :
    setBacklightSequence r level = [.duty r.blPin level] := by
  simp [setBacklightSequence, hpin, hm]

end

end Machine

/-- Settles O22: each accepts its one register write and no operation. -/
theorem configurationRequestsStoreAndEmitNothing : Obligations.ConfigurationRequestsStoreAndEmitNothing := by
  intro s o us hwf
  have hword : requestWord 0x13 false 0 0 = 0x98000000 := by decide
  refine ⟨hword, payloadOf_four_eq _ _ _ _, State.accept_eq s hwf _ _ _, ?_, ?_⟩
  · rw [← setWidth_bytes us, ← BitVec.or_assoc]
    exact requestWord_of_not_f 0x14 _ _
  · rw [← clampSettle_eq]
    exact State.accept_eq s hwf _ _ _

/-- Settles O23, by the three outcomes of the request: mode 3, a bus pin, a free pin. -/
theorem configBacklightStoresPinAndMode : Obligations.ConfigBacklightStoresPinAndMode := by
  intro s pin mode hwf
  have hmode : (0#6 ++ mode).setWidth 32 = mode.setWidth 32 := by
    revert mode
    decide
  refine ⟨?_, fun hm => ?_, fun hm hpin => ?_, fun hm hpin => ?_⟩
  · rw [← hmode]
    exact requestWord_of_not_f 0x15 _ pin
  · exact (execConfigBacklight_of_reserved hm s).trans (State.accept_eq s hwf _ _ _)
  · exact execConfigBacklight_of_bus_pin hwf hm hpin
  · exact (execConfigBacklight_of_free_pin hm hpin).trans (State.accept_eq s hwf _ _ _)

/-- Settles O24: the level is stored whatever the pin, and the operations are those of the mode. -/
theorem setBacklightDrivesThePinByMode : Obligations.SetBacklightDrivesThePinByMode := by
  intro s level hwf
  exact ⟨requestWord_only_a 0x16 level, _, State.accept_eq s hwf _ _ _, rfl,
    fun hpin => setBacklightSequence_of_absent hpin level,
    fun hpin hm => setBacklightSequence_of_normal hpin hm level,
    fun hpin hm => setBacklightSequence_of_inverted hpin hm level,
    fun hpin hm => setBacklightSequence_of_pwm hpin hm level⟩

end Sys2Proof
end

section
/-! Proof of the statement of 43_backlight_config.md on independence (O25): the pins that each sequence names, part by part, and the
registers that each side leaves alone. -/

namespace Sys2Proof

open Machine Safety

namespace Safety

/-! ### The pins that the bus sequences name (R101-R105, R117-R125) -/

/-- Every pin the operations name is a bus pin. -/
def OnBus (p : Params) (ops : List PinOp) : Prop := ∀ op ∈ ops, ∀ pin, opPin op = some pin → pin ∈ p.busPins

section
variable {p : Params}

theorem onBus_nil : OnBus p [] := List.forall_mem_nil _

theorem onBus_cons {op : PinOp} {ops : List PinOp} {pin : PinId} (hop : opPin op = some pin) (hpin : pin ∈ p.busPins)
    (h : OnBus p ops) : OnBus p (op :: ops) :=
  List.forall_mem_cons.2 ⟨fun _ hq => Option.some.inj (hop.symm.trans hq) ▸ hpin, h⟩

theorem OnBus.append {xs ys : List PinOp} (hx : OnBus p xs) (hy : OnBus p ys) : OnBus p (xs ++ ys) :=
  List.forall_mem_append.2 ⟨hx, hy⟩

/-- One operation for each of some things, each naming a bus pin. -/
theorem onBus_map {α : Type} {f : α → PinOp} {g : α → PinId} {xs : List α} (hf : ∀ x, opPin (f x) = some (g x))
    (h : ∀ x ∈ xs, g x ∈ p.busPins) : OnBus p (xs.map f) :=
  List.forall_mem_map.2 fun x hx _ hq => Option.some.inj ((hf x).symm.trans hq) ▸ h x hx

theorem onBus_delay (n : Micros) : OnBus p (delay n) := by
  unfold delay
  split
  · exact onBus_nil
  · exact List.forall_mem_singleton.2 fun _ hq => nomatch hq

theorem rs_mem_busPins : p.rs ∈ p.busPins := Params.mem_busPins.2 (.inl rfl)

theorem e_mem_busPins : p.e ∈ p.busPins := Params.mem_busPins.2 (.inr (.inr (.inl rfl)))

theorem rwPins_subset_busPins : p.rwPins ⊆ p.busPins := fun _ h => Params.mem_busPins.2 (.inr (.inl (Params.mem_rwPins.1 h)))

theorem dataPins_subset_busPins : p.dataPins ⊆ p.busPins := fun _ h => Params.mem_busPins.2 (.inr (.inr (.inr h)))

theorem onBus_rwLow : OnBus p (p.rwPins.map fun rw => .write rw false) := onBus_map (fun _ => rfl) rwPins_subset_busPins

theorem onBus_clockOut {w : Nat} (hw : p.data.toList.take w = p.dataPins) (settle : BitVec 16) (x : BitVec w) :
    OnBus p (clockOut p settle w x) := by
  have hdata : OnBus p (dataWrites p w x) := by
    rw [dataWrites_eq]
    exact onBus_map (fun _ => rfl) fun a ha => dataPins_subset_busPins (hw ▸ fst_mem_of_dataWrites ha)
  have hpulse : OnBus p (pulse p settle) :=
    (onBus_cons rfl e_mem_busPins (onBus_delay _)).append (onBus_cons rfl e_mem_busPins onBus_nil) |>.append (onBus_delay _)
  exact hdata.append hpulse

theorem onBus_transmit (settle : BitVec 16) (v : Byte) (rs : Bool) : OnBus p (transmit p settle v rs) := by
  refine OnBus.append (onBus_cons rfl rs_mem_busPins onBus_rwLow) ?_
  cases hb : p.bus8
  · have hw := Params.take_four_of_bus4 hb
    exact (onBus_clockOut hw settle _).append (onBus_clockOut hw settle _)
  · exact onBus_clockOut (Params.take_eight_of_bus8 hb) settle v

theorem onBus_transmit_delay (settle : BitVec 16) (v : Byte) (rs : Bool) (n : Micros) :
    OnBus p (transmit p settle v rs ++ delay n) :=
  (onBus_transmit settle v rs).append (onBus_delay n)

theorem onBus_flatMap_data (settle : BitVec 16) (vs : List Byte) : OnBus p (vs.flatMap (data p settle)) := by
  intro op hop
  obtain ⟨v, -, hop⟩ := List.mem_flatMap.1 hop
  exact onBus_transmit settle v true op hop

theorem onBus_recovery (r : Regs) : OnBus p (if p.bus8 then recovery8 p r else recovery4 p r.settle) := by
  cases hb : p.bus8
  · have hnibble (x : Nibble) (n : Micros) : OnBus p (clockOut p r.settle 4 x ++ delay n) :=
      (onBus_clockOut (Params.take_four_of_bus4 hb) r.settle x).append (onBus_delay n)
    simpa [recovery4] using (((hnibble _ _).append (hnibble _ _)).append (hnibble _ _)).append
      (onBus_clockOut (Params.take_four_of_bus4 hb) r.settle _)
  · have hcommand (n : Micros) := onBus_transmit_delay (p := p) r.settle (functionSetByte r) false n
    simpa [recovery8, command] using ((hcommand _).append (hcommand _)).append (hcommand _)

theorem onBus_beginSequence (r : Regs) : OnBus p (beginSequence p r) := by
  have hconfig : OnBus p (configurePins p) := onBus_map (fun _ => rfl) fun _ h => h
  have hlevels : OnBus p (powerUpLevels p) :=
    ((onBus_delay _).append (onBus_cons rfl rs_mem_busPins (onBus_cons rfl e_mem_busPins onBus_nil))).append onBus_rwLow
  have hcommand (v : Byte) : OnBus p (command p r.settle v) := onBus_transmit r.settle v false
  exact (((((hconfig.append hlevels).append (onBus_recovery r)).append (hcommand _)).append (hcommand _)).append
    (onBus_transmit_delay r.settle clearDisplayByte false _)).append (hcommand _)

end

/-! ### The pin that the backlight sequences name (R169-R171) -/

theorem opPin_of_mem_configBacklightSequence {pin : PinId} : ∀ op ∈ configBacklightSequence pin, opPin op = some pin := by
  unfold configBacklightSequence
  split
  · exact List.forall_mem_nil _
  · exact List.forall_mem_singleton.2 rfl

theorem opPin_of_mem_setBacklightSequence {r : Regs} {level : Byte} :
    ∀ op ∈ setBacklightSequence r level, opPin op = some r.blPin := by
  unfold setBacklightSequence
  split
  · exact List.forall_mem_nil _
  · split
    · exact List.forall_mem_singleton.2 rfl
    · split <;> exact List.forall_mem_singleton.2 rfl

/-! ### What each side leaves alone (R165, R172) -/

/-- The registers that no configuration or backlight request writes are the same. -/
def SameDisplay (r r' : Regs) : Prop :=
  r'.func = r.func ∧ r'.dctrl = r.dctrl ∧ r'.emode = r.emode ∧ r'.numLines = r.numLines ∧ r'.curRow = r.curRow

/-- The registers that no display request writes are the same. -/
def SameBacklight (r r' : Regs) : Prop :=
  r'.blPin = r.blPin ∧ r'.blMode = r.blMode ∧ r'.blLevel = r.blLevel ∧ r'.settle = r.settle

section
variable {s t : State} {regs : Regs} {seq : List PinOp} {resp : Response} (h : s.accept regs seq resp = .next t)
include h

/-- A request that names at most one pin, which is off the bus. -/
theorem accept_off_bus {pin : PinId} (hpin : pin ∉ s.params.busPins) (hseq : ∀ op ∈ seq, opPin op = some pin)
    (hregs : SameDisplay s.regs regs) :
    (∀ op ∈ t.seq, ∀ q, opPin op = some q → q ∉ s.params.busPins) ∧ SameDisplay s.regs t.regs := by
  obtain ⟨-, rfl⟩ := State.accept_next h
  exact ⟨fun op hop _ hq => Option.some.inj ((hseq op hop).symm.trans hq) ▸ hpin, hregs⟩

/-- A request that names bus pins only. -/
theorem accept_on_bus (hseq : OnBus s.params seq) (hregs : SameBacklight s.regs regs) :
    OnBus s.params t.seq ∧ SameBacklight s.regs t.regs := by
  obtain ⟨-, rfl⟩ := State.accept_next h
  exact ⟨hseq, hregs⟩

end

end Safety

/-- Settles O25, instruction by instruction: a display request accepts pieces of the transport, and a backlight request operations on
one pin, which is off the bus. -/
theorem backlightAndDisplayAreIndependent : Obligations.BacklightAndDisplayAreIndependent := by
  intro i s t hr h
  cases i with
  | lcdBegin => exact accept_on_bus h (onBus_beginSequence _) ⟨rfl, rfl, rfl, rfl⟩
  | clear | home => exact accept_on_bus h (onBus_transmit_delay _ _ _ _) ⟨rfl, rfl, rfl, rfl⟩
  | setCursor | displayOn | displayOff | cursorOn | cursorOff | blinkOn | blinkOff | scrollLeft | scrollRight
  | leftToRight | rightToLeft | autoscrollOn | autoscrollOff | write =>
    exact accept_on_bus h (onBus_transmit _ _ _) ⟨rfl, rfl, rfl, rfl⟩
  | createChar =>
    exact accept_on_bus h ((onBus_transmit _ _ _).append (onBus_flatMap_data _ _)) ⟨rfl, rfl, rfl, rfl⟩
  | setRowOffsets | setSettleTime => exact accept_off_bus h hr.blPin (List.forall_mem_nil _) ⟨rfl, rfl, rfl, rfl, rfl⟩
  | configBacklight pin mode =>
    obtain ⟨-, h⟩ | ⟨-, hpin, h⟩ := execConfigBacklight_next h
    · exact accept_off_bus h hr.blPin (List.forall_mem_nil _) ⟨rfl, rfl, rfl, rfl, rfl⟩
    · exact accept_off_bus h hpin opPin_of_mem_configBacklightSequence ⟨rfl, rfl, rfl, rfl, rfl⟩
  | setBacklight level =>
    exact accept_off_bus h hr.blPin opPin_of_mem_setBacklightSequence ⟨rfl, rfl, rfl, rfl, rfl⟩

end Sys2Proof
end

section
/-! Proofs of the statements of 60_exceptions.md: a block that nobody answers holds (O35), and the only runs that stop are those
the spec asks a model to refuse (O43). -/

namespace Sys2Proof

open Machine

namespace Machine

/-! ### The edges without a handshake, and with reset (R186, R196, R200) -/

theorem step_of_hold {s : State} (hw : s.params.wf = true) (hc : s.contested = false) (hev : s.edgeEvent = .hold) :
    step s = .next s.popEdge := by
  simp [step, State.edgeRefusal_eq_none.2 ⟨hw, hc⟩, hev]

theorem step_of_reset {s : State} (hw : s.params.wf = true) (hc : s.contested = false) (hev : s.edgeEvent = .reset) :
    step s = .next s.popEdge.applyReset := by
  simp [step, State.edgeRefusal_eq_none.2 ⟨hw, hc⟩, hev]

/-- An edge without reset or another driver that does not answer what a block in BUSY presents: the operation SEQ[USTEP] below
len(SEQ), RESP at it (R196). -/
def State.LeavesUnanswered (s : State) (e : Inputs) : Prop :=
  e.rst = false ∧ e.otherDrives = [] ∧ if s.ustep < s.seq.length then e.poReady = false else e.respReady = false

/-- One unanswered edge passes and nothing else happens. -/
theorem step_unanswered {s : State} (hwf : s.params.wf = true) (hbusy : s.phase = .busy)
    (hedge : s.LeavesUnanswered s.edge) : step s = .next s.popEdge := by
  obtain ⟨hrst, hdrives, hready⟩ := hedge
  refine step_of_hold hwf (State.not_contested_of_no_driver hdrives) ?_
  split at hready
  · next hlt => simp [State.edgeEvent_of_op hbusy hrst (List.getElem?_eq_getElem hlt), hready]
  · next hend => simp [State.edgeEvent_of_end hbusy hrst (Nat.le_of_not_lt hend), hready]

/-- What the block presents stays the same, so the next edge leaves the same thing unanswered. -/
theorem core_run_unanswered {s : State} {edges rest : List Inputs} (hwf : s.params.wf = true) (hbusy : s.phase = .busy)
    (hin : s.inputs = edges ++ rest) (hedges : ∀ e ∈ edges, s.LeavesUnanswered e) :
    Sys2Proof.core.run edges.length s = .next { s with inputs := rest } := by
  induction edges generalizing s with
  | nil =>
    obtain rfl : s.inputs = rest := hin
    rfl
  | cons e es ih =>
    obtain ⟨hfirst, hothers⟩ := List.forall_mem_cons.1 hedges
    have hedge : s.edge = e := State.edge_of_cons hin
    calc Sys2Proof.core.run (es.length + 1) s
      _ = Sys2Proof.core.run es.length s.popEdge := core_run_next (step_unanswered hwf hbusy (hedge ▸ hfirst))
      _ = .next { s with inputs := rest } := ih (s := s.popEdge) hwf hbusy (congrArg List.tail hin) hothers

/-! ### Everything a well-formed block can answer (R170, R180, R189) -/

theorem exec_outcome {s : State} (hwf : s.params.wf = true) (i : Instr) :
    (∃ t, exec i s = .next t) ∨
    (exec i s = .refused .backlightPinOnBus ∧
      ∃ pin mode, i = .configBacklight pin mode ∧ mode ≠ 3 ∧ pin ∈ s.params.busPins) := by
  cases i with
  | configBacklight pin mode =>
    by_cases hmode : mode = 3
    · exact .inl ⟨_, (execConfigBacklight_of_reserved hmode s).trans (State.accept_eq s hwf _ _ _)⟩
    · by_cases hpin : pin ∈ s.params.busPins
      · exact .inr ⟨execConfigBacklight_of_bus_pin hwf hmode hpin, pin, mode, rfl, hmode, hpin⟩
      · exact .inl ⟨_, (execConfigBacklight_of_free_pin hmode hpin).trans (State.accept_eq s hwf _ _ _)⟩
  | _ => exact .inl ⟨_, State.accept_eq s hwf _ _ _⟩

theorem acceptRequest_outcome {s : State} (hwf : s.params.wf = true) (req : Request) :
    (∃ t, acceptRequest req s = .next t) ∨
    (acceptRequest req s = .refused .backlightPinOnBus ∧
      ∃ pin mode, decode req = .ok (.configBacklight pin mode) ∧ mode ≠ 3 ∧ pin ∈ s.params.busPins) := by
  cases hd : decode req with
  | ok i =>
    rw [acceptRequest_of_ok hd]
    obtain hnext | ⟨hrefused, pin, mode, rfl, hmode, hpin⟩ := exec_outcome (s := s.latch req) hwf i
    · exact .inl hnext
    · exact .inr ⟨hrefused, pin, mode, rfl, hmode, hpin⟩
  | error e =>
    rw [acceptRequest_of_error hd]
    exact .inl ⟨_, State.accept_eq (s.latch req) hwf _ _ _⟩

theorem step_outcome {s : State} (hwf : s.params.wf = true) (hc : s.contested = false) :
    (∃ t, step s = .next t) ∨
    (step s = .refused .backlightPinOnBus ∧
      ∃ pin mode, decode ⟨s.edge.reqWord, s.edge.reqPayload⟩ = .ok (.configBacklight pin mode) ∧ mode ≠ 3 ∧
        pin ∈ s.params.busPins) := by
  obtain ⟨hev, -⟩ | ⟨req, hev, -, -, -, rfl⟩ | ⟨op, hev, -⟩ | ⟨hev, -⟩ | ⟨hev, -⟩ := s.edgeEvent_cases
  · exact .inl ⟨_, step_of_reset hwf hc hev⟩
  · rw [step_of_accept hwf hc hev]
    exact acceptRequest_outcome (s := s.popEdge) hwf _
  · exact .inl ⟨_, step_of_perform hwf hc hev⟩
  · exact .inl ⟨_, step_of_deliver hwf hc hev⟩
  · exact .inl ⟨_, step_of_hold hwf hc hev⟩

theorem step_refused {s : State} {r : Refusal} (h : step s = .refused r) :
    r = .illFormedConfiguration ∨ r = .contestedPin ∨ r = .backlightPinOnBus := by
  cases hwf : s.params.wf with
  | false => exact .inl (Host.Outcome.refused.inj (h.symm.trans (step_illFormed hwf)))
  | true =>
    cases hc : s.contested with
    | true => exact .inr (.inl (Host.Outcome.refused.inj (h.symm.trans (step_contested hwf hc))))
    | false =>
      obtain ⟨t, hnext⟩ | ⟨hrefused, -⟩ := step_outcome hwf hc
      · cases h.symm.trans hnext
      · exact .inr (.inr (Host.Outcome.refused.inj (h.symm.trans hrefused)))

end Machine

/-- Settles O35, by induction on the unanswered edges: each passes, and the block goes on presenting the same. -/
theorem aStuckBlockHolds : Obligations.AStuckBlockHolds :=
  fun _ _ _ hwf hbusy hin hedges => core_run_unanswered hwf hbusy hin hedges

/-- Settles O43: with a well-formed block and no contested pin, only a backlight pin on the bus stops a step, and the premise
excludes that request. -/
theorem everyRequestIsServedInEveryState : Obligations.EveryRequestIsServedInEveryState := by
  refine ⟨fun s hwf hc hlegal => ?_, fun _ _ => step_refused⟩
  obtain hnext | ⟨-, pin, mode, hd, hmode, hpin⟩ := step_outcome hwf hc
  · exact hnext
  · exact ((hlegal pin mode hd).elim hmode fun hfree => hfree hpin).elim

end Sys2Proof
end

section
/-! Proofs of the statements of 70_reset_and_hazards.md on reset (O36, O44): the edge that resets, and the state it leaves. -/

namespace Sys2Proof

open Machine Safety

namespace Machine

/-! ### The edge with `rst = 1` (R186, R200) -/

theorem State.edgeEvent_of_rst {s : State} (hr : s.edge.rst = true) : s.edgeEvent = .reset := if_pos hr

theorem State.outputs_of_rst {s : State} (hr : s.edge.rst = true) : s.outputs = ⟨false, none, none⟩ := by
  simp [State.outputs, State.reqReady, State.presentedOp, State.presentedResponse, hr]

end Machine

/-- Settles O36: the edge's event is the reset, and that leaves the reset registers. -/
theorem resetWinsAndRestoresTheRegisters : Obligations.ResetWinsAndRestoresTheRegisters := by
  intro s hwf hc hr
  exact ⟨State.outputs_of_rst hr, _, step_of_reset hwf hc (State.edgeEvent_of_rst hr), rfl, rfl, rfl, rfl, rfl, rfl, rfl⟩

namespace Safety

/-- The reset registers have their invariant, and nothing is in flight or performed (R200). -/
theorem inv_resetOf {p : Params} (hwf : p.wf = true) : Inv (State.resetOf p) where
  wf := hwf
  regs := regsInv_resetOf hwf
  ustep := le_rfl
  seq := List.forall_mem_nil _
  trace := List.forall_mem_nil _
  resp := .inl rfl

end Safety

/-- Settles O44: configuration A is one of the well-formed constructions. -/
theorem invariantHoldsAfterReset : Obligations.InvariantHoldsAfterReset :=
  ⟨inv_resetOf (by decide), fun _ hwf => inv_resetOf hwf⟩

end Sys2Proof
end

section
/-! Proofs of the statements of 70_reset_and_hazards.md on the hazards of the bus (O29, O30). Both rest on `exec_strobed`: every
sequence raises E in whole pulses only, so each claim is checked for a pulse and for an operation outside one. -/

namespace Sys2Proof

open Machine Safety

namespace Machine

theorem State.accept_seq {s t : State} {regs : Regs} {seq : List PinOp} {resp : Response}
    (h : s.accept regs seq resp = .next t) : t.seq = seq := by
  rw [(State.accept_next h).2]

end Machine

namespace Safety

/-! ### Sequences that raise E in whole pulses only (R105) -/

/-- The operation does not drive E. -/
def SparesE (p : Params) (op : PinOp) : Prop := ∀ level, op ≠ .write p.e level

/-- Operations from E low to E low: each drive of E high is that of a pulse, with nothing inside the pulse but its own DELAY. -/
inductive Strobed (p : Params) (settle : BitVec 16) : List PinOp → Prop where
  | nil : Strobed p settle []
  | spare {op : PinOp} {ops : List PinOp} : SparesE p op → Strobed p settle ops → Strobed p settle (op :: ops)
  | lower {ops : List PinOp} : Strobed p settle ops → Strobed p settle (.write p.e false :: ops)
  | strobe {ops : List PinOp} : Strobed p settle ops → Strobed p settle (pulse p settle ++ ops)

section
variable {p : Params} {settle : BitVec 16}

theorem sparesE_of_opPin {op : PinOp} {pin : PinId} (hop : opPin op = some pin) (hpin : pin ≠ p.e) : SparesE p op := by
  rintro level rfl
  exact hpin (Option.some.inj hop).symm

theorem sparesE_config (pin : PinId) (dir : Direction) : SparesE p (.config pin dir) := fun _ => nofun

theorem sparesE_delay (n : Micros) : SparesE p (.delay n) := fun _ => nofun

theorem Strobed.append {xs ys : List PinOp} (hx : Strobed p settle xs) (hy : Strobed p settle ys) :
    Strobed p settle (xs ++ ys) := by
  induction hx with
  | nil => exact hy
  | spare hop _ ih => exact .spare hop ih
  | lower _ ih => exact .lower ih
  | strobe _ ih =>
    rw [List.append_assoc]
    exact .strobe ih

theorem strobed_of_sparesE {ops : List PinOp} (h : ∀ op ∈ ops, SparesE p op) : Strobed p settle ops := by
  induction ops with
  | nil => exact .nil
  | cons op ops ih =>
    obtain ⟨hop, hops⟩ := List.forall_mem_cons.1 h
    exact .spare hop (ih hops)

theorem strobed_delay (n : Micros) : Strobed p settle (delay n) := by
  unfold delay
  split
  · exact .nil
  · exact .spare (sparesE_delay n) .nil

/-- The backlight sequences name one pin, which is off the bus. -/
theorem strobed_off_bus {pin : PinId} (hpin : pin ∉ p.busPins) {ops : List PinOp} (h : ∀ op ∈ ops, opPin op = some pin) :
    Strobed p settle ops :=
  strobed_of_sparesE fun op hop => sparesE_of_opPin (h op hop) fun he => hpin (he ▸ e_mem_busPins)

section
variable (hwf : p.wf = true)
include hwf

theorem strobed_rwLow : Strobed p settle (p.rwPins.map fun rw => .write rw false) := by
  obtain ⟨-, -, -, -, hrw⟩ := Params.wf_pins hwf
  exact strobed_of_sparesE (List.forall_mem_map.2 fun pin hpin => sparesE_of_opPin rfl (hrw pin hpin).2.1)

theorem strobed_selectLines (rs : Bool) : Strobed p settle (selectLines p rs) :=
  .spare (sparesE_of_opPin rfl (Params.wf_pins hwf).1) (strobed_rwLow hwf)

theorem strobed_clockOut {w : Nat} (hw : p.data.toList.take w = p.dataPins) (x : BitVec w) :
    Strobed p settle (clockOut p settle w x) := by
  obtain ⟨-, -, he, -, -⟩ := Params.wf_pins hwf
  have hdata : Strobed p settle (dataWrites p w x) := by
    rw [dataWrites_eq]
    refine strobed_of_sparesE (List.forall_mem_map.2 fun a ha => sparesE_of_opPin rfl fun hpin => he ?_)
    exact hpin ▸ hw ▸ fst_mem_of_dataWrites ha
  simpa [clockOut] using hdata.append (.strobe .nil)

theorem strobed_transmit (v : Byte) (rs : Bool) : Strobed p settle (transmit p settle v rs) := by
  refine (strobed_selectLines hwf rs).append ?_
  cases hb : p.bus8
  · have hw := Params.take_four_of_bus4 hb
    exact (strobed_clockOut hwf hw _).append (strobed_clockOut hwf hw _)
  · exact strobed_clockOut hwf (Params.take_eight_of_bus8 hb) v

theorem strobed_flatMap_data (vs : List Byte) : Strobed p settle (vs.flatMap (data p settle)) := by
  induction vs with
  | nil => exact .nil
  | cons v vs ih => exact (strobed_transmit hwf v true).append ih

theorem strobed_recovery (r : Regs) :
    Strobed p r.settle (if p.bus8 then recovery8 p r else recovery4 p r.settle) := by
  cases hb : p.bus8
  · have hnibble (x : Nibble) := strobed_clockOut (settle := r.settle) hwf (Params.take_four_of_bus4 hb) x
    exact ((((((hnibble _).append (strobed_delay _)).append (hnibble _)).append (strobed_delay _)).append
      (hnibble _)).append (strobed_delay _)).append (hnibble _)
  · have hcommand := strobed_transmit (settle := r.settle) hwf (functionSetByte r) false
    exact ((((hcommand.append (strobed_delay _)).append hcommand).append (strobed_delay _)).append hcommand).append
      (strobed_delay _)

theorem strobed_beginSequence (r : Regs) : Strobed p r.settle (beginSequence p r) := by
  have hconfig : Strobed p r.settle (configurePins p) :=
    strobed_of_sparesE (List.forall_mem_map.2 fun pin _ => sparesE_config pin .output)
  have hlevels : Strobed p r.settle (powerUpLevels p) :=
    ((strobed_delay _).append (.spare (sparesE_of_opPin rfl (Params.wf_pins hwf).1) (.lower .nil))).append
      (strobed_rwLow hwf)
  have hcommand (v : Byte) := strobed_transmit (settle := r.settle) hwf v false
  exact (((((hconfig.append hlevels).append (strobed_recovery hwf r)).append (hcommand _)).append (hcommand _)).append
    ((hcommand _).append (strobed_delay _))).append (hcommand _)

end

end

/-- The sequence of every accepted instruction, with the settle time from before it. -/
theorem exec_strobed {i : Instr} {s t : State} (hr : RegsInv s.params s.regs) (h : exec i s = .next t) :
    s.params.wf = true ∧ Strobed s.params s.regs.settle t.seq := by
  obtain ⟨_, _, _, hacc⟩ := exec_accepts h
  obtain ⟨hwf, -⟩ := State.accept_next hacc
  refine ⟨hwf, ?_⟩
  cases i with
  | lcdBegin cols rows font =>
    rw [State.accept_seq h]
    exact strobed_beginSequence hwf (beginRegs s.params s.regs cols rows font)
  | clear | home =>
    rw [State.accept_seq h]
    exact (strobed_transmit hwf _ _).append (strobed_delay _)
  | setCursor | displayOn | displayOff | cursorOn | cursorOff | blinkOn | blinkOff | scrollLeft | scrollRight
  | leftToRight | rightToLeft | autoscrollOn | autoscrollOff | write =>
    rw [State.accept_seq h]
    exact strobed_transmit hwf _ _
  | createChar =>
    rw [State.accept_seq h]
    exact (strobed_transmit hwf _ _).append (strobed_flatMap_data hwf _)
  | setRowOffsets | setSettleTime =>
    rw [State.accept_seq h]
    exact .nil
  | configBacklight pin mode =>
    obtain ⟨-, h⟩ | ⟨-, hpin, h⟩ := execConfigBacklight_next h <;> rw [State.accept_seq h]
    · exact .nil
    · exact strobed_off_bus hpin opPin_of_mem_configBacklightSequence
  | setBacklight level =>
    rw [State.accept_seq h]
    exact strobed_off_bus hr.blPin opPin_of_mem_setBacklightSequence

/-! ### The lines change only while E is low (R210) -/

section
variable {p : Params} {settle : BitVec 16} {ops : List PinOp}

theorem changesOnlyWhileELow_spare {op : PinOp} (hop : SparesE p op) :
    changesOnlyWhileELow p false (op :: ops) = changesOnlyWhileELow p false ops := by
  cases op with
  | write pin level =>
    have hpin : pin ≠ p.e := fun he => hop level (he ▸ rfl)
    simp [changesOnlyWhileELow, hpin]
  | config | delay | duty => rfl

theorem changesOnlyWhileELow_delay (e : Bool) (n : Micros) :
    changesOnlyWhileELow p e (delay n ++ ops) = changesOnlyWhileELow p e ops := by
  unfold delay
  split <;> rfl

/-- Inside a pulse no pin but E is written. -/
theorem changesOnlyWhileELow_pulse (e : Bool) :
    changesOnlyWhileELow p e (pulse p settle ++ ops) = changesOnlyWhileELow p false ops := by
  simp [pulse, changesOnlyWhileELow, changesOnlyWhileELow_delay]

theorem Strobed.changesOnlyWhileELow (h : Strobed p settle ops) : changesOnlyWhileELow p false ops = true := by
  induction h with
  | nil => rfl
  | spare hop _ ih => exact (changesOnlyWhileELow_spare hop).trans ih
  | lower _ ih => exact (if_pos rfl).trans ih
  | strobe _ ih => exact (changesOnlyWhileELow_pulse false).trans ih

end

end Safety

/-- Settles O29: outside its pulses E stays low, and a pulse writes E alone. -/
theorem busLinesChangeOnlyWhileELow : Obligations.BusLinesChangeOnlyWhileELow :=
  fun _ _ _ hr h => (exec_strobed hr h).2.changesOnlyWhileELow

namespace Safety

/-! ### Each sample is followed by its wait (R206) -/

theorem waitEvents_of_pos {m : Nat} (hm : 0 < m) : waitEvents m = [.wait m] := if_neg hm.ne'

section
variable {p : Params} {n : Nat}

/-- With E low, an operation that does not drive E adds at most a wait, and E stays low. -/
theorem samplesFollowedByWait_spare {op : PinOp} {ops : List PinOp} (hop : SparesE p op) {lv : Levels}
    (hlow : lv p.e = false) :
    samplesFollowedByWait n (busEvents p lv (op :: ops)) =
      samplesFollowedByWait n (busEvents p (levelsAfter lv [op]) ops) ∧
    levelsAfter lv [op] p.e = false := by
  cases op with
  | write pin level =>
    have hpin : pin ≠ p.e := fun he => hop level (he ▸ rfl)
    exact ⟨by simp [busEvents, levelsAfter, hpin], (drive_of_ne lv level hpin.symm).trans hlow⟩
  | delay m => exact ⟨by simp [busEvents, levelsAfter, samplesFollowedByWait, hlow], hlow⟩
  | config | duty => exact ⟨rfl, hlow⟩

theorem samplesFollowedByWait_pulse (hwf : p.wf = true) {settle : BitVec 16} (hpos : 0 < n) (hn : n ≤ settle.toNat)
    (ops : List PinOp) (lv : Levels) :
    samplesFollowedByWait n (busEvents p lv (pulse p settle ++ ops)) =
      samplesFollowedByWait n (busEvents p (levelsAfter lv (pulse p settle)) ops) := by
  obtain ⟨hrs, -, hdata, -, -⟩ := Params.wf_pins hwf
  rw [busEvents_append, busEvents_pulse p settle lv hrs hdata, waitEvents_of_pos (hpos.trans_le hn)]
  simp [samplesFollowedByWait, hn]

theorem levelsAfter_pulse_low (settle : BitVec 16) (lv : Levels) : levelsAfter lv (pulse p settle) p.e = false := by
  rw [levelsAfter_pulse, drive_same]

theorem Strobed.samplesFollowedByWait (hwf : p.wf = true) {settle : BitVec 16} (hpos : 0 < n) (hn : n ≤ settle.toNat)
    {ops : List PinOp} (h : Strobed p settle ops) {lv : Levels} (hlow : lv p.e = false) :
    samplesFollowedByWait n (busEvents p lv ops) = true := by
  induction h generalizing lv with
  | nil => rfl
  | spare hop _ ih =>
    obtain ⟨heq, hlow'⟩ := samplesFollowedByWait_spare hop hlow
    exact heq.trans (ih hlow')
  | lower _ ih => simpa [busEvents, hlow] using ih (drive_same lv p.e false)
  | strobe _ ih => exact (samplesFollowedByWait_pulse hwf hpos hn _ lv).trans (ih (levelsAfter_pulse_low settle lv))

end

/-! ### The set-up of the lines before a rise of E (R210, D37) -/

section
variable {p : Params}

theorem setupTimesMet_of_portSetupOk (hport : p.portSetupOk = true) (settled : Bool) (ops : List PinOp) :
    setupTimesMet p settled ops = true := by
  induction ops generalizing settled with
  | nil => rfl
  | cons op ops ih =>
    cases op with
    | write pin level => by_cases hpin : pin = p.e <;> simp [setupTimesMet, hpin, hport, ih]
    | config | delay | duty => exact ih _

/-- Writes to pins other than E set nothing up. -/
theorem setupTimesMet_writes {ws : List (PinId × Bool)} (h : ∀ w ∈ ws, w.1 ≠ p.e) (ops : List PinOp) :
    setupTimesMet p false ((ws.map fun w => .write w.1 w.2) ++ ops) = setupTimesMet p false ops := by
  induction ws with
  | nil => rfl
  | cons w ws ih =>
    obtain ⟨hw, hws⟩ := List.forall_mem_cons.1 h
    simpa [setupTimesMet, hw] using ih hws

section
variable (hwf : p.wf = true)
include hwf

/-- The select step writes RS, a line of the bus, after any DELAY before it. -/
theorem setupTimesMet_selectLines (settled rs : Bool) (ops : List PinOp) :
    setupTimesMet p settled (selectLines p rs ++ ops) = setupTimesMet p false ops := by
  obtain ⟨hrs, -, -, -, hrw⟩ := Params.wf_pins hwf
  have hrwLow := setupTimesMet_writes (p := p) (ws := p.rwPins.map fun rw => (rw, false))
    (List.forall_mem_map.2 fun rw hm => (hrw rw hm).2.1) ops
  simpa [selectLines, setupTimesMet, hrs, rs_mem_busPins, Function.comp_def] using hrwLow

/-- No DELAY stands between the data writes and the rise of E. -/
theorem setupTimesMet_clockOut (hport : p.portSetupOk = false) {w : Nat} (hw : p.data.toList.take w = p.dataPins)
    (settle : BitVec 16) (x : BitVec w) (ops : List PinOp) :
    setupTimesMet p false (clockOut p settle w x ++ ops) = false := by
  obtain ⟨-, -, he, -, -⟩ := Params.wf_pins hwf
  rw [clockOut, List.append_assoc, dataWrites_eq,
    setupTimesMet_writes fun a ha hpin => he (hpin ▸ hw ▸ fst_mem_of_dataWrites ha)]
  simp [pulse, setupTimesMet, hport]

theorem setupTimesMet_transmit (hport : p.portSetupOk = false) (settle : BitVec 16) (v : Byte) (rs settled : Bool) :
    setupTimesMet p settled (transmit p settle v rs) = false := by
  rw [transmit, setupTimesMet_selectLines hwf]
  cases hb : p.bus8
  · exact setupTimesMet_clockOut hwf hport (Params.take_four_of_bus4 hb) settle _ _
  · simpa using setupTimesMet_clockOut hwf hport (Params.take_eight_of_bus8 hb) settle v []

end

end

/-! ### The premises of the controller's timing, and the two longer waits (R205-R209) -/

theorem timingMeetsController_waits {p : Params} {settle : BitVec 16} (h : timingMeetsController p settle = true) :
    p.portSetupOk = true ∧ executionMinimum ≤ settle.toNat ∧ slowExecutionMinimum ≤ p.timing.tClear.toNat ∧
      slowExecutionMinimum ≤ p.timing.tHome.toNat := by
  simp only [timingMeetsController, Bool.and_eq_true, decide_eq_true_eq] at h
  obtain ⟨⟨⟨⟨⟨⟨⟨hport, -⟩, hsettle⟩, hclear⟩, hhome⟩, -⟩, -⟩, -⟩ := h
  exact ⟨hport, hsettle, hclear, hhome⟩

theorem getLast?_append_delay {n : Micros} (hn : slowExecutionMinimum ≤ n.toNat) (ops : List PinOp) :
    (ops ++ delay n).getLast? = some (.delay n) := by
  have hne : n ≠ 0 := by
    rintro rfl
    exact absurd hn (by decide)
  rw [delay, if_neg hne, List.getLast?_concat]

/-- `CLEAR` and `HOME` end with their own wait (R131, R132). -/
theorem exec_clear_or_home_getLast? {i : Instr} {s t : State} (hclear : slowExecutionMinimum ≤ s.params.timing.tClear.toNat)
    (hhome : slowExecutionMinimum ≤ s.params.timing.tHome.toNat) (h : exec i s = .next t) (hi : i = .clear ∨ i = .home) :
    ∃ n, t.seq.getLast? = some (.delay n) ∧ slowExecutionMinimum ≤ n.toNat := by
  obtain rfl | rfl := hi <;> rw [State.accept_seq h]
  · exact ⟨_, getLast?_append_delay hclear _, hclear⟩
  · exact ⟨_, getLast?_append_delay hhome _, hhome⟩

end Safety

/-- Settles O30: PORT_SETUP_OK is enough at every rise of E, each pulse ends with its settle DELAY, and `CLEAR` and `HOME` end with
theirs; without PORT_SETUP_OK, the first pulse of a transmit rises on lines just written. -/
theorem controllerTimingRestsOnItsPremises : Obligations.ControllerTimingRestsOnItsPremises := by
  refine ⟨fun i s t htiming hr h => ?_, fun p settle v rs settled hwf hport => ?_⟩
  · obtain ⟨hport, hsettle, hclear, hhome⟩ := timingMeetsController_waits htiming
    obtain ⟨hwf, hseq⟩ := exec_strobed hr h
    exact ⟨setupTimesMet_of_portSetupOk hport _ _, fun lv hlow => hseq.samplesFollowedByWait hwf (by decide) hsettle hlow,
      exec_clear_or_home_getLast? hclear hhome h⟩
  · exact setupTimesMet_transmit hwf hport settle v rs settled

end Sys2Proof
end

section
/-! Proof of the statement of 70_reset_and_hazards.md on times (O31): the DELAYs of each part of a sequence, summed. -/

namespace Sys2Proof

open Machine Safety

namespace Safety

/-! ### The DELAYs of a transmit (R100-R106) -/

/-- Operations that each name a pin take no DELAY. -/
theorem minMicros_of_named {ops : List PinOp} (h : ∀ op ∈ ops, opPin op ≠ none) : minMicros ops = 0 := by
  induction ops with
  | nil => rfl
  | cons op ops ih =>
    obtain ⟨hop, hops⟩ := List.forall_mem_cons.1 h
    cases op with
    | delay n => exact absurd rfl hop
    | config | write | duty => exact ih hops

theorem minMicros_selectLines (p : Params) (rs : Bool) : minMicros (selectLines p rs) = 0 :=
  minMicros_of_named (List.forall_mem_cons.2 ⟨nofun, List.forall_mem_map.2 fun _ _ => nofun⟩)

theorem minMicros_configurePins (p : Params) : minMicros (configurePins p) = 0 :=
  minMicros_of_named (List.forall_mem_map.2 fun _ _ => nofun)

/-- The backlight sequences name one pin. -/
theorem minMicros_of_opPin {ops : List PinOp} {pin : PinId} (h : ∀ op ∈ ops, opPin op = some pin) : minMicros ops = 0 :=
  minMicros_of_named fun op hop => by simp [h op hop]

theorem minMicros_pulse (p : Params) (settle : BitVec 16) :
    minMicros (pulse p settle) = p.timing.tEHigh.toNat + settle.toNat := by
  have hsettle : (settle.setWidth 32).toNat = settle.toNat := BitVec.toNat_setWidth_of_le (by decide)
  simp [pulse, minMicros, minMicros_append, minMicros_delay, hsettle]

theorem minMicros_clockOut (p : Params) (settle : BitVec 16) (w : Nat) (x : BitVec w) :
    minMicros (clockOut p settle w x) = p.timing.tEHigh.toNat + settle.toNat := by
  rw [clockOut, minMicros_append, minMicros_dataWrites, minMicros_pulse, Nat.zero_add]

/-- A transmit waits for its one clock-out, or its two. -/
theorem minMicros_transmit (p : Params) (settle : BitVec 16) (v : Byte) (rs : Bool) :
    minMicros (transmit p settle v rs) = (if p.bus8 then 1 else 2) * (p.timing.tEHigh.toNat + settle.toNat) := by
  cases hb : p.bus8
  · rw [transmit_of_bus4 hb]
    simp [minMicros_append, minMicros_selectLines, minMicros_clockOut, Nat.two_mul]
  · rw [transmit_of_bus8 hb]
    simp [minMicros_append, minMicros_selectLines, minMicros_clockOut]

/-! ### The figures of R214: the default timing, and a settle time of 100 -/

section
variable {p : Params} {settle : BitVec 16} (ht : p.timing = Timing.default) (hs : settle = 100)
include ht hs

theorem minMicros_clockOut_default (w : Nat) (x : BitVec w) : minMicros (clockOut p settle w x) = 101 := by
  rw [minMicros_clockOut, ht, hs]
  rfl

theorem minMicros_transmit_default (v : Byte) (rs : Bool) :
    minMicros (transmit p settle v rs) = if p.bus8 then 101 else 202 := by
  rw [minMicros_transmit, ht, hs]
  cases p.bus8 <;> rfl

theorem minMicros_flatMap_data_default (vs : List Byte) :
    minMicros (vs.flatMap (data p settle)) = vs.length * if p.bus8 then 101 else 202 := by
  induction vs with
  | nil => simp [minMicros]
  | cons v vs ih =>
    rw [List.flatMap_cons, minMicros_append, ih, data, minMicros_transmit_default ht hs, List.length_cons, Nat.succ_mul,
      Nat.add_comm]

theorem minMicros_transmit_delay_default (v : Byte) (rs : Bool) {n : Micros} (hn : n = 2000) :
    minMicros (transmit p settle v rs ++ delay n) = if p.bus8 then 2101 else 2202 := by
  rw [minMicros_append, minMicros_transmit_default ht hs, minMicros_delay, hn]
  cases p.bus8 <;> rfl

end

theorem minMicros_powerUpLevels_default {p : Params} (ht : p.timing = Timing.default) :
    minMicros (powerUpLevels p) = 50000 := by
  have hlevels : minMicros ([.write p.rs false, .write p.e false] ++ p.rwPins.map fun rw => .write rw false) = 0 :=
    minMicros_of_named (by simp [opPin])
  rw [powerUpLevels, List.append_assoc, minMicros_append, hlevels, minMicros_delay, ht]
  rfl

section
variable {p : Params} {r : Regs} (ht : p.timing = Timing.default) (hs : r.settle = 100)
include ht hs

/-- Three commands and two waits, or four nibbles and three waits (R119, R120). -/
theorem minMicros_recovery_default :
    minMicros (if p.bus8 then recovery8 p r else recovery4 p r.settle) = if p.bus8 then 4953 else 9554 := by
  cases hb : p.bus8
  · simp [recovery4, minMicros_append, minMicros_clockOut_default ht hs, minMicros_delay, ht, Timing.default]
  · simp [recovery8, command, minMicros_append, minMicros_transmit_default ht hs, hb, minMicros_delay, ht, Timing.default]

theorem minMicros_beginSequence_default : minMicros (beginSequence p r) = if p.bus8 then 57357 else 62362 := by
  have hclear : minMicros (clearSequence p r.settle) = if p.bus8 then 2101 else 2202 :=
    minMicros_transmit_delay_default ht hs clearDisplayByte false (congrArg Timing.tClear ht)
  simp only [beginSequence, command, minMicros_append, minMicros_configurePins, minMicros_powerUpLevels_default ht,
    minMicros_recovery_default ht hs, minMicros_transmit_default ht hs, hclear]
  cases p.bus8 <;> rfl

end

end Safety

/-- Settles O31, instruction by instruction: the parts of `BEGIN`, one transmit with or without the longer wait, nine
transmits for a glyph, or no DELAY. -/
theorem minimumTimesOfRequests : Obligations.MinimumTimesOfRequests := by
  intro i s t ht hs h
  cases i with
  | lcdBegin cols rows font =>
    rw [State.accept_seq h]
    exact minMicros_beginSequence_default (r := beginRegs s.params s.regs cols rows font) ht hs
  | clear =>
    rw [State.accept_seq h]
    exact minMicros_transmit_delay_default ht hs _ _ (congrArg Timing.tClear ht)
  | home =>
    rw [State.accept_seq h]
    exact minMicros_transmit_delay_default ht hs _ _ (congrArg Timing.tHome ht)
  | setCursor | displayOn | displayOff | cursorOn | cursorOff | blinkOn | blinkOff | scrollLeft | scrollRight
  | leftToRight | rightToLeft | autoscrollOn | autoscrollOff | write =>
    rw [State.accept_seq h]
    exact minMicros_transmit_default ht hs _ _
  | createChar index pattern =>
    rw [State.accept_seq h, minMicros_append, command, minMicros_transmit_default ht hs,
      minMicros_flatMap_data_default ht hs]
    simp only [patternBytes, List.length_cons, List.length_nil]
    cases s.params.bus8 <;> rfl
  | setRowOffsets | setSettleTime =>
    rw [State.accept_seq h]
    rfl
  | configBacklight pin mode =>
    obtain ⟨-, h⟩ | ⟨-, -, h⟩ := execConfigBacklight_next h <;> rw [State.accept_seq h]
    · rfl
    · exact minMicros_of_opPin opPin_of_mem_configBacklightSequence
  | setBacklight level =>
    rw [State.accept_seq h]
    exact minMicros_of_opPin opPin_of_mem_setBacklightSequence

end Sys2Proof
end
